-- ==== Sys2Proof/Word.lean ====
section
/-! DEFINITION. The word types of the block (00_scope.md R6, R9): every value is an unsigned bit vector of its stated width. -/

namespace Sys2Proof

/-- A register address, a data byte or a frame-buffer row (00_scope.md R6: `ADDR_W`, `DATA_W`). -/
abbrev Byte := BitVec 8

/-- One Driver Register Frame (00_scope.md R6: `FRAME_W`). -/
abbrev Frame := BitVec 16

/-- One command word or STATUS value (00_scope.md R6: `CMD_W`). -/
abbrev Word := BitVec 32

end Sys2Proof
end

