-- ==== Sys2Proof/Config.lean ====
section
/-! DEFINITION. What an implementation fixes (the configuration record of 00_scope.md R6 and R7) and the model's free values. -/

namespace Sys2Proof

/-- Who moves next where the host and the shifter both can (20_memory.md R67 leaves the order open). -/
inductive Turn where
  | host
  | shifter
  deriving DecidableEq, Repr, Inhabited

/-- The configuration record: the OPEN parameters of 00_scope.md R6. -/
structure Config where
  /-- `REG_DECODE` -/
  regDecode : Byte
  /-- `REG_INTENSITY` -/
  regIntensity : Byte
  /-- `REG_SCANLIMIT` -/
  regScanLimit : Byte
  /-- `REG_SHUTDOWN` -/
  regShutdown : Byte
  /-- `REG_DISPLAYTEST` -/
  regDisplayTest : Byte
  /-- `VAL_DECODE_OFF` -/
  valDecodeOff : Byte
  /-- `VAL_SCAN_ALL8` -/
  valScanAll8 : Byte
  /-- `VAL_NORMAL` -/
  valNormal : Byte
  /-- `VAL_SHUTDOWN` -/
  valShutdown : Byte
  /-- `VAL_TEST_ON` -/
  valTestOn : Byte
  /-- `VAL_TEST_OFF` -/
  valTestOff : Byte
  /-- `INTENSITY_PAYLOAD`: a total function from 0..15 to 8-bit values (R7), as its table. -/
  intensityPayload : Vector Byte 16
  /-- `INIT_INTENSITY`: 0..15 by its width (R7). -/
  initIntensity : BitVec 4
  /-- `SCK_HZ`; no rule of the model reads it (92_eei_decisions.md D16). -/
  sckHz : Nat
  /-- `SS_LINE`; no rule of the model reads it (D16). -/
  ssLine : Nat
  /-- `SPI_CPOL`; no rule of the model reads it (D16). -/
  spiCpol : Bool
  /-- `SPI_CPHA`; no rule of the model reads it (D16). -/
  spiCpha : Bool
  /-- `CMD_BASE`: host address of the command port (10_state.md R29). -/
  cmdBase : Nat
  deriving DecidableEq, Repr

/-- Free value (log 2): who moves at the k-th contended step after the plan in State is used up. -/
opaque Config.freeTurn : Nat → Turn

/-- Free value (log 4): `INIT_INTENSITY` has no default. -/
opaque Config.freeInitIntensity : BitVec 4

/-- Free value (log 4): `SCK_HZ`. -/
opaque Config.freeSckHz : Nat

/-- Free value (log 4): `SS_LINE`. -/
opaque Config.freeSsLine : Nat

/-- Free value (log 4): `SPI_CPOL`. -/
opaque Config.freeSpiCpol : Bool

/-- Free value (log 4): `SPI_CPHA`. -/
opaque Config.freeSpiCpha : Bool

/-- The default register map of 00_scope.md R6 (PRESUMED, log 4: the spec's own defaults, taken from
general knowledge of the chip family, 93_implementation_defined.md G1 to G4) with a given
`INIT_INTENSITY`. `CMD_BASE` is a DESIGN CHOICE of log 4. -/
def Config.default (initIntensity : BitVec 4) : Config :=
  { regDecode := 0x09, regIntensity := 0x0A, regScanLimit := 0x0B, regShutdown := 0x0C
    regDisplayTest := 0x0F
    valDecodeOff := 0x00, valScanAll8 := 0x07, valNormal := 0x01, valShutdown := 0x00
    valTestOn := 0x01, valTestOff := 0x00
    intensityPayload := #v[0, 1, 2, 3, 4, 5, 6, 7, 8, 9, 10, 11, 12, 13, 14, 15]
    initIntensity := initIntensity
    sckHz := Config.freeSckHz, ssLine := Config.freeSsLine
    spiCpol := Config.freeSpiCpol, spiCpha := Config.freeSpiCpha
    cmdBase := 0 }

end Sys2Proof
end

