-- ==== Sys2Proof/Machine/State.lean ====
section
/-! DEFINITION. The state of the block (10_state.md R22), the observation state (R37), the outside world's plan, and reset. -/

namespace Sys2Proof.Machine

/-- A sparse byte store in canonical form: addresses strictly rising (log 12). -/
abbrev Memory := List Host.Cell

/-- A row of the frame buffer: row number r of 1..8 is the slot r-1 (10_state.md R33: "an explicit index-shift
at the boundary"). There is no row 0. -/
abbrev Row := Fin 8

/-- The response codes of 60_exceptions.md R240; codes 11 to 15 are never written. -/
inductive Resp where
  | ok
  | invalidCoordinate
  | invalidRow
  | illegalCommand
  | busNotIdle
  | selectWhileSelected
  | writeWithoutSelect
  | secondWrite
  | deselectEmpty
  | deselectMidShift
  | deselectNotSelected
  deriving DecidableEq, Repr

/-- `S.CMDST` (10_state.md R22). -/
inductive CmdState where
  | idle
  | collect
  | exec
  deriving DecidableEq, Repr

/-- `S.LIST`: the count of the header and the data words collected so far (10_state.md R22, 42_bitmap.md R200). -/
structure CoordList where
  count : Byte
  words : List Word
  deriving DecidableEq, Repr

/-- The empty `S.LIST`. -/
def CoordList.empty : CoordList := ⟨0, []⟩

/-- The wire events of 40_transaction.md R130. -/
inductive WireEvent where
  /-- slave-select driven low -/
  | ssFall
  /-- slave-select driven high -/
  | ssRise
  /-- one data bit clocked out -/
  | bit (b : Bool)
  deriving DecidableEq, Repr

/-- An entry of FRAMES (40_transaction.md R131). -/
inductive Latched where
  /-- sixteen bits were shifted: the frame -/
  | full (f : Frame)
  /-- `PARTIAL(n)`: only n bits were -/
  | partialOf (n : Nat)
  deriving DecidableEq, Repr

/-- Where a transaction of a composite command takes its frame from. -/
inductive FrameSource where
  /-- a frame fixed when the command was decoded -/
  | const (f : Frame)
  /-- row r of the frame buffer under a column mask, read when the row's transaction starts (43_render.md R221, R224) -/
  | row (r : Row) (mask : Byte)
  deriving DecidableEq, Repr

/-- The small steps of an executing command (log 10): the statements of the spec's pseudocode. -/
inductive MicroOp where
  /-- `S.SEQ <- seq`, then `txn` of the frame of `src` -/
  | start (seq : Nat) (src : FrameSource)
  /-- step a of `txn` (40_transaction.md R120) -/
  | select
  /-- step b of `txn` -/
  | write (f : Frame)
  /-- step c of `txn`, and BUS_WAIT's hold (R123) -/
  | wait
  /-- step d of `txn` -/
  | deselect
  /-- `S.INITD <- 1` (41_driver_protocol.md R168) -/
  | setInit
  /-- `respond(code)` (40_transaction.md R135) -/
  | respond (code : Resp)
  deriving DecidableEq, Repr

/-- What the host can do (70_reset_and_hazards.md R288). `width` is the access width in bits. -/
inductive HostAction where
  | write (addr width : Nat) (data : Word)
  | read (addr width : Nat)
  | reset
  deriving DecidableEq, Repr

/-- What stops the machine with a fault. A protocol fault of 60_exceptions.md R242 is not one of these: it is
a next state with FAULT set. -/
inductive Fault where
  /-- Raised by the step when the host has no action left, no reset is due and CMDST = COLLECT: the run is
  stuck (70_reset_and_hazards.md R287). Safe. -/
  | stuckCollecting
  /-- Raised by the step where CMDST = EXEC and the command has no step left; no run reaches such a state. Safe. -/
  | lostCommand
  deriving DecidableEq, Repr

/-- What the model refuses. -/
inductive Refusal where
  /-- Raised by `exec` for an instruction without a meaning, by name; none is left. Safe. -/
  | notModelled (mnemonic : String)
  /-- Raised by a write of STATUS (10_state.md R31). Safe. -/
  | statusWrite
  /-- Raised by a read of CMD (10_state.md R31). Safe. -/
  | cmdRead
  /-- Raised by a port access that is not 32 bits wide (10_state.md R31, 20_memory.md R64). Safe. -/
  | accessWidth
  /-- Raised by a port access at any other offset (10_state.md R31, 20_memory.md R64). Safe. -/
  | unknownOffset
  /-- Raised by the step where the configuration record breaks 00_scope.md R7. Safe. -/
  | badConfiguration
  deriving DecidableEq, Repr

/-- The machine: the block (R22), the observation state (R37), the configuration record (00_scope.md R6), and
the outside world's plan (log 2, 3, 7, 15). -/
structure State where
  /-- `FB[1..8]`; an unlisted row reads 0x00 -/
  fb : Memory
  /-- `SSN`: true is high, deasserted -/
  ssn : Bool
  /-- `TXDR` -/
  txdr : Frame
  /-- `TXE` -/
  txe : Bool
  /-- `BSY` -/
  bsy : Bool
  /-- `SHR` -/
  shr : Frame
  /-- `CNT` -/
  cnt : BitVec 5
  /-- `WR` -/
  wr : Bool
  /-- `INITD` -/
  initd : Bool
  /-- `FAULT` -/
  faulted : Bool
  /-- `RESP` -/
  resp : Resp
  /-- `CMDST` -/
  cmdst : CmdState
  /-- `SEQ` -/
  seq : Nat
  /-- `LIST` -/
  list : CoordList
  /-- what is left of the executing command (log 10) -/
  work : List MicroOp
  /-- `TRACE`, oldest first -/
  trace : List WireEvent
  /-- `RXBITS`, first bit first -/
  rxbits : List Bool
  /-- `FRAMES`, oldest first -/
  frames : List Latched
  /-- `DRV`; an unlisted address is `unknown` -/
  drv : Memory
  /-- the configuration record; no step writes it -/
  cfg : Config
  /-- the host actions still to come, in order -/
  program : List HostAction
  /-- the STATUS values read so far, oldest first -/
  reads : List Word
  /-- when the reset input is asserted next: how many steps come before it, each counted from the reset before it (the
  first from now); none listed: no reset is on its way -/
  resets : List Nat
  /-- who moves next where both the host and the shifter can -/
  sched : List Turn
  /-- how many such choices were drawn from `Config.freeTurn` -/
  draws : Nat
  deriving DecidableEq, Repr

/-- The machine right after the first reset: every block field at the value of 10_state.md R22 (R270), the observation
state as at the start of a run (R37), the default register map (log 4), and nothing planned (log 2, 3, 7). -/
def State.reset : State :=
  { fb := [], ssn := true, txdr := 0, txe := true, bsy := false, shr := 0, cnt := 0, wr := false
    initd := false, faulted := false, resp := .ok, cmdst := .idle, seq := 0, list := .empty, work := []
    trace := [], rxbits := [], frames := [], drv := []
    cfg := Config.default Config.freeInitIntensity
    program := [], reads := [], resets := [], sched := [], draws := 0 }

end Sys2Proof.Machine
end

