-- ==== Sys2Proof/Machine/Flags.lean ====
section
/-! DEFINITION. The flag predicates and the STATUS register (10_state.md R23 to R30; 40_transaction.md R120, R126 to R128). -/

namespace Sys2Proof.Machine

/-- The response code's number (60_exceptions.md R240). -/
def Resp.code : Resp → BitVec 4
  | .ok => 0
  | .invalidCoordinate => 1
  | .invalidRow => 2
  | .illegalCommand => 3
  | .busNotIdle => 4
  | .selectWhileSelected => 5
  | .writeWithoutSelect => 6
  | .secondWrite => 7
  | .deselectEmpty => 8
  | .deselectMidShift => 9
  | .deselectNotSelected => 10

/-- Codes 4 to 10 are protocol faults (60_exceptions.md R240, R242); codes 1 to 3 are recoverable (R241). -/
def Resp.isProtocolFault : Resp → Bool
  | .ok => false
  | .invalidCoordinate => false
  | .invalidRow => false
  | .illegalCommand => false
  | .busNotIdle => true
  | .selectWhileSelected => true
  | .writeWithoutSelect => true
  | .secondWrite => true
  | .deselectEmpty => true
  | .deselectMidShift => true
  | .deselectNotSelected => true

/-- `bus_idle()` (40_transaction.md R120). -/
def State.busIdle (s : State) : Bool := s.ssn && !s.wr && !s.bsy && s.txe

/-- The condition of the completion wait: `BSY = 0` and `TXE = 1` (40_transaction.md R120 step c, R123). -/
def State.shiftDone (s : State) : Bool := !s.bsy && s.txe

/-- LOAD is enabled (40_transaction.md R126). -/
def State.loadEnabled (s : State) : Bool := !s.txe && !s.bsy

/-- SHIFT is enabled (40_transaction.md R127). -/
def State.shiftEnabled (s : State) : Bool := s.bsy && s.cnt != 0

/-- FINISH is enabled (40_transaction.md R128). -/
def State.finishEnabled (s : State) : Bool := s.bsy && s.cnt == 0

/-- Some step of the shifter is enabled (40_transaction.md R129). -/
def State.shifterEnabled (s : State) : Bool := s.loadEnabled || s.shiftEnabled || s.finishEnabled

/-- `STATUS` (10_state.md R30). -/
def State.status (s : State) : Word :=
  (s.resp.code ++ 0b00#2 ++ BitVec.ofBool s.faulted ++ BitVec.ofBool s.initd ++ BitVec.ofBool s.wr ++
    BitVec.ofBool s.ssn ++ BitVec.ofBool s.bsy ++ BitVec.ofBool s.txe).setWidth 32

end Sys2Proof.Machine
end

