-- ==== Sys2Proof/Syntax.lean ====
section
/-! DEFINITION. The commands of the block (30_encoding.md R91, R95, R96) and the assembler's commands (R101, R102). -/

namespace Sys2Proof

/-- The command set, one constructor per row of spec/opcode_table.json; TRANSLATE_LIST has two, since
its row covers two word formats (T, the header, and D, each data word; log 13). Every operand has
exactly the width of its field (30_encoding.md R91), so every term is well formed. -/
inductive Instr where
  /-- TRANSMIT frame -/
  | transmit (frame : Frame)
  /-- WRITE_REG addr, value -/
  | writeReg (addr value : Byte)
  /-- DECODE_OFF -/
  | decodeOff
  /-- SET_INTENSITY level -/
  | setIntensity (level : BitVec 4)
  /-- SCAN_LIMIT_ALL -/
  | scanLimitAll
  /-- SET_OPMODE on -/
  | setOpmode (on : Bool)
  /-- SET_DISPLAY_TEST on -/
  | setDisplayTest (on : Bool)
  /-- WRITE_ROW row, value -/
  | writeRow (row : BitVec 4) (value : Byte)
  /-- MATRIX_INIT -/
  | matrixInit
  /-- MATRIX_CLEAR -/
  | matrixClear
  /-- TRANSLATE_LIST, the header word with its COUNT (format T) -/
  | translateList (count : Byte)
  /-- TRANSLATE_LIST, one data word (format D); taken whole, whatever its bits hold (30_encoding.md R100) -/
  | translateWord (word : Word)
  /-- RENDER_FULL -/
  | renderFull
  /-- RENDER_ROW row -/
  | renderRow (row : BitVec 4)
  /-- RENDER_COLS col -/
  | renderCols (col : Byte)
  /-- BUS_SELECT -/
  | busSelect
  /-- BUS_WRITE frame -/
  | busWrite (frame : Frame)
  /-- BUS_WAIT -/
  | busWait
  /-- BUS_DESELECT -/
  | busDeselect
  deriving DecidableEq, Repr

/-- A line of the assembler (30_encoding.md R101) with its operands as the numbers written, and the
pseudo-instructions of R102. Whether the operands fit their fields is WellFormed's question. -/
inductive Asm where
  | transmit (frame : Nat)
  | writeReg (addr value : Nat)
  | decodeOff
  | setIntensity (level : Nat)
  | scanLimitAll
  | setOpmode (on : Nat)
  | setDisplayTest (on : Nat)
  | writeRow (row value : Nat)
  | matrixInit
  | matrixClear
  | translateList (pairs : List (Nat × Nat))
  | renderFull
  | renderRow (row : Nat)
  | renderCols (col : Nat)
  | busSelect
  | busWrite (frame : Nat)
  | busWait
  | busDeselect
  /-- pseudo: `SET_OPMODE 1` -/
  | normalOp
  /-- pseudo: `SET_OPMODE 0` -/
  | shutdown
  /-- pseudo: `SET_DISPLAY_TEST 1` -/
  | testOn
  /-- pseudo: `SET_DISPLAY_TEST 0` -/
  | testOff
  /-- pseudo: `TRANSLATE_LIST [(x,y)]` -/
  | translate (x y : Nat)
  /-- pseudo: `RENDER_COLS 0` -/
  | renderNone
  deriving DecidableEq, Repr

end Sys2Proof
end

