-- ==== Sys2Proof/WellFormed.lean ====
section
/-! DEFINITION. The checks made before use: the configuration record (00_scope.md R7) and the assembler's operands (30_encoding.md R101). -/

namespace Sys2Proof

/-- The five `REG_*` addresses of the configuration record. -/
def Config.controlRegs (c : Config) : List Byte :=
  [c.regDecode, c.regIntensity, c.regScanLimit, c.regShutdown, c.regDisplayTest]

/-- 00_scope.md R7: every `REG_*` differs from every row address 1..8, and the five are pairwise distinct.
The ranges of `INIT_INTENSITY` and of `INTENSITY_PAYLOAD`'s domain are in their types. -/
def Config.wf (c : Config) : Bool :=
  c.controlRegs.all (fun a => decide (a.toNat < 1 ∨ 8 < a.toNat)) && decide c.controlRegs.Nodup

/-- 30_encoding.md R101: the assembler refuses an operand that does not fit its field, and a list of more
than 255 pairs. It does not check an operand's range beyond its field (`RENDER_ROW 9` is well formed). -/
def Asm.wf : Asm → Bool
  | .transmit frame => frame ≤ 0xFFFF
  | .writeReg addr value => addr ≤ 255 && value ≤ 255
  | .decodeOff => true
  | .setIntensity level => level ≤ 15
  | .scanLimitAll => true
  | .setOpmode on => on ≤ 1
  | .setDisplayTest on => on ≤ 1
  | .writeRow row value => row ≤ 15 && value ≤ 255
  | .matrixInit => true
  | .matrixClear => true
  | .translateList pairs => pairs.length ≤ 255 && pairs.all fun p => p.1 ≤ 15 && p.2 ≤ 15
  | .renderFull => true
  | .renderRow row => row ≤ 15
  | .renderCols col => col ≤ 255
  | .busSelect => true
  | .busWrite frame => frame ≤ 0xFFFF
  | .busWait => true
  | .busDeselect => true
  | .normalOp => true
  | .shutdown => true
  | .testOn => true
  | .testOff => true
  | .translate x y => x ≤ 15 && y ≤ 15
  | .renderNone => true

end Sys2Proof
end

