-- ==== Sys2Proof/Decode.lean ====
section
/-! DEFINITION. The command words (30_encoding.md): fields, decoder, encoder, opcode table, and the assembler's words. -/

namespace Sys2Proof

/-! ## Fields (30_encoding.md R91) -/

/-- `OP`, bits 31:28. -/
def opField (w : Word) : BitVec 4 := w.extractLsb' 28 4

/-- `SUB`, bits 27:24. -/
def subField (w : Word) : BitVec 4 := w.extractLsb' 24 4

/-- `FRAME`, bits 15:0. -/
def frameField (w : Word) : Frame := w.extractLsb' 0 16

/-- `ADDR`, bits 15:8. -/
def addrField (w : Word) : Byte := w.extractLsb' 8 8

/-- Bits 7:0: `VALUE` (R, W), `COUNT` (T), `COL` (K). -/
def lowByteField (w : Word) : Byte := w.extractLsb' 0 8

/-- `ROW` of format W, bits 11:8. -/
def rowFieldW (w : Word) : BitVec 4 := w.extractLsb' 8 4

/-- Bits 3:0: `ROW` of format Q, `LEVEL` (L), `Y` (D). -/
def lowNibbleField (w : Word) : BitVec 4 := w.extractLsb' 0 4

/-- `ON`, bit 0. -/
def onField (w : Word) : Bool := w.getLsbD 0

/-- `X` of format D, bits 7:4. -/
def xField (w : Word) : BitVec 4 := w.extractLsb' 4 4

/-- `Y` of format D, bits 3:0. -/
def yField (w : Word) : BitVec 4 := lowNibbleField w

/-- The bits of a data word that format D fixes to zero, 31:8. -/
def dataHighField (w : Word) : BitVec 24 := w.extractLsb' 8 24

/-! ## Decoder (30_encoding.md R95 to R97) -/

/-- Why a word is illegal: the three cases of 30_encoding.md R97. -/
inductive Illegal where
  /-- `OP = 0x0` -/
  | opZero
  /-- `OP = 0xF` with `SUB` in 0x4..0xF -/
  | subUndefined
  /-- a bit that the format marks reserved is 1 -/
  | reservedBit
  deriving DecidableEq, Repr

/-- `i`, provided the bits of `reserved` are all zero in `w`. -/
def unlessReserved (reserved w : Word) (i : Instr) : Except Illegal Instr :=
  if w &&& reserved = 0 then .ok i else .error .reservedBit

/-- The bus primitives, chosen by `SUB` (30_encoding.md R96). -/
def decodePrimitive (w : Word) : Except Illegal Instr :=
  match (subField w).toNat with
  | 0x0 => unlessReserved 0x00FFFFFF w .busSelect
  | 0x1 => unlessReserved 0x00FF0000 w (.busWrite (frameField w))
  | 0x2 => unlessReserved 0x00FFFFFF w .busWait
  | 0x3 => unlessReserved 0x00FFFFFF w .busDeselect
  | _ => .error .subUndefined

/-- A word decoded as a new command (30_encoding.md R95): total, rejecting by name. -/
def decode (w : Word) : Except Illegal Instr :=
  match (opField w).toNat with
  | 0x1 => unlessReserved 0x0FFF0000 w (.transmit (frameField w))
  | 0x2 => unlessReserved 0x0FFF0000 w (.writeReg (addrField w) (lowByteField w))
  | 0x3 => unlessReserved 0x0FFFFFFF w .decodeOff
  | 0x4 => unlessReserved 0x0FFFFFF0 w (.setIntensity (lowNibbleField w))
  | 0x5 => unlessReserved 0x0FFFFFFF w .scanLimitAll
  | 0x6 => unlessReserved 0x0FFFFFFE w (.setOpmode (onField w))
  | 0x7 => unlessReserved 0x0FFFFFFE w (.setDisplayTest (onField w))
  | 0x8 => unlessReserved 0x0FFFF000 w (.writeRow (rowFieldW w) (lowByteField w))
  | 0x9 => unlessReserved 0x0FFFFFFF w .matrixInit
  | 0xA => unlessReserved 0x0FFFFFFF w .matrixClear
  | 0xB => unlessReserved 0x0FFFFF00 w (.translateList (lowByteField w))
  | 0xC => unlessReserved 0x0FFFFFFF w .renderFull
  | 0xD => unlessReserved 0x0FFFFFF0 w (.renderRow (lowNibbleField w))
  | 0xE => unlessReserved 0x0FFFFF00 w (.renderCols (lowByteField w))
  | 0xF => decodePrimitive w
  | _ => .error .opZero

/-- What a word written to CMD stands for (30_encoding.md R90, R100): while a list is being collected every
word is its next data word, otherwise it is decoded as a new command. -/
def decodePort (collecting : Bool) (w : Word) : Except Illegal Instr :=
  if collecting then .ok (.translateWord w) else decode w

/-- The host's question: what the decoder reads from a table row's bits. Every row is one 32-bit word on the
port (20_memory.md R63), so the word is `w` itself below `nbits` bits. -/
def decodeTableWord (nbits w : Nat) : Option Instr :=
  match decode (BitVec.ofNat 32 (w % 2 ^ nbits)) with
  | .ok i => some i
  | .error _ => none

/-! ## Encoder (30_encoding.md R92) -/

/-- `zext_32(OP) << 28` -/
def opWord (op : Word) : Word := op <<< 28

/-- The command word of each command (30_encoding.md R92). -/
def encode : Instr → Word
  | .transmit frame => opWord 0x1 ||| frame.setWidth 32
  | .writeReg addr value => opWord 0x2 ||| (addr ++ value).setWidth 32
  | .decodeOff => opWord 0x3
  | .setIntensity level => opWord 0x4 ||| level.setWidth 32
  | .scanLimitAll => opWord 0x5
  | .setOpmode on => opWord 0x6 ||| (BitVec.ofBool on).setWidth 32
  | .setDisplayTest on => opWord 0x7 ||| (BitVec.ofBool on).setWidth 32
  | .writeRow row value => opWord 0x8 ||| (row.setWidth 32 <<< 8) ||| value.setWidth 32
  | .matrixInit => opWord 0x9
  | .matrixClear => opWord 0xA
  | .translateList count => opWord 0xB ||| count.setWidth 32
  | .translateWord word => word
  | .renderFull => opWord 0xC
  | .renderRow row => opWord 0xD ||| row.setWidth 32
  | .renderCols col => opWord 0xE ||| col.setWidth 32
  | .busSelect => 0xF0000000
  | .busWrite frame => 0xF1000000 ||| frame.setWidth 32
  | .busWait => 0xF2000000
  | .busDeselect => 0xF3000000

/-- A data word of TRANSLATE_LIST (format D, 30_encoding.md R92). -/
def encodePair (x y : BitVec 4) : Word := (x.setWidth 32 <<< 4) ||| y.setWidth 32

/-- Is this the data word form of TRANSLATE_LIST? Its meaning to the decoder depends on CMDST only. -/
def Instr.isDataWord : Instr → Bool
  | .translateWord _ => true
  | _ => false

/-! ## The opcode table (spec/opcode_table.json; 30_encoding.md R97) -/

/-- One row of spec/opcode_table.json. -/
structure OpRow where
  mnemonic : String
  mask : Word
  pattern : Word
  deriving DecidableEq, Repr

/-- The rows of spec/opcode_table.json, in its order. -/
def opcodeTable : List OpRow :=
  [⟨"TRANSMIT", 0xFFFF0000, 0x10000000⟩, ⟨"WRITE_REG", 0xFFFF0000, 0x20000000⟩,
   ⟨"DECODE_OFF", 0xFFFFFFFF, 0x30000000⟩, ⟨"SET_INTENSITY", 0xFFFFFFF0, 0x40000000⟩,
   ⟨"SCAN_LIMIT_ALL", 0xFFFFFFFF, 0x50000000⟩, ⟨"SET_OPMODE", 0xFFFFFFFE, 0x60000000⟩,
   ⟨"SET_DISPLAY_TEST", 0xFFFFFFFE, 0x70000000⟩, ⟨"WRITE_ROW", 0xFFFFF000, 0x80000000⟩,
   ⟨"MATRIX_INIT", 0xFFFFFFFF, 0x90000000⟩, ⟨"MATRIX_CLEAR", 0xFFFFFFFF, 0xA0000000⟩,
   ⟨"TRANSLATE_LIST", 0xFFFFFF00, 0xB0000000⟩, ⟨"RENDER_FULL", 0xFFFFFFFF, 0xC0000000⟩,
   ⟨"RENDER_ROW", 0xFFFFFFF0, 0xD0000000⟩, ⟨"RENDER_COLS", 0xFFFFFF00, 0xE0000000⟩,
   ⟨"BUS_SELECT", 0xFFFFFFFF, 0xF0000000⟩, ⟨"BUS_WRITE", 0xFFFF0000, 0xF1000000⟩,
   ⟨"BUS_WAIT", 0xFFFFFFFF, 0xF2000000⟩, ⟨"BUS_DESELECT", 0xFFFFFFFF, 0xF3000000⟩]

/-- `(w & mask) = match` (30_encoding.md R97). -/
def OpRow.covers (t : OpRow) (w : Word) : Bool := w &&& t.mask == t.pattern

/-- The row of the opcode table a command belongs to, by name. -/
def Instr.mnemonic : Instr → String
  | .transmit _ => "TRANSMIT"
  | .writeReg _ _ => "WRITE_REG"
  | .decodeOff => "DECODE_OFF"
  | .setIntensity _ => "SET_INTENSITY"
  | .scanLimitAll => "SCAN_LIMIT_ALL"
  | .setOpmode _ => "SET_OPMODE"
  | .setDisplayTest _ => "SET_DISPLAY_TEST"
  | .writeRow _ _ => "WRITE_ROW"
  | .matrixInit => "MATRIX_INIT"
  | .matrixClear => "MATRIX_CLEAR"
  | .translateList _ => "TRANSLATE_LIST"
  | .translateWord _ => "TRANSLATE_LIST"
  | .renderFull => "RENDER_FULL"
  | .renderRow _ => "RENDER_ROW"
  | .renderCols _ => "RENDER_COLS"
  | .busSelect => "BUS_SELECT"
  | .busWrite _ => "BUS_WRITE"
  | .busWait => "BUS_WAIT"
  | .busDeselect => "BUS_DESELECT"

/-! ## The assembler's words (30_encoding.md R101, R102) -/

/-- A pseudo-instruction's expansion (30_encoding.md R102); any other line is itself. -/
def Asm.expand : Asm → Asm
  | .normalOp => .setOpmode 1
  | .shutdown => .setOpmode 0
  | .testOn => .setDisplayTest 1
  | .testOff => .setDisplayTest 0
  | .translate x y => .translateList [(x, y)]
  | .renderNone => .renderCols 0
  | a => a

/-- The data words of a list, one per pair in written order. -/
def pairInstrs (pairs : List (Nat × Nat)) : List Instr :=
  pairs.map fun p => .translateWord (encodePair (BitVec.ofNat 4 p.1) (BitVec.ofNat 4 p.2))

/-- The commands of a line that is no pseudo-instruction (one, but for TRANSLATE_LIST and its data words). -/
def Asm.coreInstrs : Asm → List Instr
  | .transmit frame => [.transmit (BitVec.ofNat 16 frame)]
  | .writeReg addr value => [.writeReg (BitVec.ofNat 8 addr) (BitVec.ofNat 8 value)]
  | .decodeOff => [.decodeOff]
  | .setIntensity level => [.setIntensity (BitVec.ofNat 4 level)]
  | .scanLimitAll => [.scanLimitAll]
  | .setOpmode on => [.setOpmode (on == 1)]
  | .setDisplayTest on => [.setDisplayTest (on == 1)]
  | .writeRow row value => [.writeRow (BitVec.ofNat 4 row) (BitVec.ofNat 8 value)]
  | .matrixInit => [.matrixInit]
  | .matrixClear => [.matrixClear]
  | .translateList pairs => .translateList (BitVec.ofNat 8 pairs.length) :: pairInstrs pairs
  | .renderFull => [.renderFull]
  | .renderRow row => [.renderRow (BitVec.ofNat 4 row)]
  | .renderCols col => [.renderCols (BitVec.ofNat 8 col)]
  | .busSelect => [.busSelect]
  | .busWrite frame => [.busWrite (BitVec.ofNat 16 frame)]
  | .busWait => [.busWait]
  | .busDeselect => [.busDeselect]
  | .normalOp => []
  | .shutdown => []
  | .testOn => []
  | .testOff => []
  | .translate _ _ => []
  | .renderNone => []

/-- A line's command words; none where the assembler refuses it (30_encoding.md R101). -/
def assemble (a : Asm) : Option (List Word) :=
  if a.wf then some (a.expand.coreInstrs.map encode) else none

/-- A program's command words; none where one line is refused: the assembler refuses the program. -/
def assembleAll : List Asm → Option (List Word)
  | [] => some []
  | a :: as =>
    match assemble a, assembleAll as with
    | some ws, some rest => some (ws ++ rest)
    | _, _ => none

end Sys2Proof
end

