-- ==== Sys2Proof/Machine/Operands.lean ====
section
/-! DEFINITION. Operand forms: frames, rows, masks, coordinates and the configuration frames (00_scope.md R11, R12; 30_encoding.md R93, R94, R98). -/

namespace Sys2Proof.Machine

/-- `frame(a, v) = a ++ v` (30_encoding.md R93, 20_memory.md R61). -/
def mkFrame (addr value : Byte) : Frame := addr ++ value

/-- The register-address byte of a frame, `f[15:8]`. -/
def frameAddr (f : Frame) : Byte := f.extractLsb' 8 8

/-- The data byte of a frame, `f[7:0]`. -/
def frameData (f : Frame) : Byte := f.extractLsb' 0 8

/-- A row's number, 1..8. -/
def rowNumber (r : Row) : Nat := r.val + 1

/-- `ROW_ADDR(r)` = r (00_scope.md R6, R11). -/
def rowAddr (r : Row) : Byte := BitVec.ofNat 8 (rowNumber r)

/-- The rows 1..8 in ascending order. -/
def allRows : List Row := [0, 1, 2, 3, 4, 5, 6, 7]

/-- A 1-based index of 1..8 as a slot; none outside that range (30_encoding.md R98). -/
def slotOf (n : Nat) : Option Row :=
  if h : 1 ≤ n ∧ n ≤ 8 then some ⟨n - 1, by omega⟩ else none

/-- A `ROW` operand as a row; none for 0 and 9..15 (41_driver_protocol.md R167, 43_render.md R223). -/
def rowOperand (row : BitVec 4) : Option Row := slotOf row.toNat

/-- `colmask(c)` (00_scope.md R12). -/
def colmask (c : Byte) : Byte :=
  if c.toNat ≥ 8 then 0xFF else (1#8 <<< c.toNat) - 1

/-- `bitmask(x) = 1 << (x-1)` for the column x in slot x-1 (00_scope.md R12, 42_bitmap.md R201). -/
def bitmask (x : Fin 8) : Byte := 1#8 <<< x.val

/-- A pixel of the bitmap: its column and its row, both as slots (42_bitmap.md R204: "x is column, y is row"). -/
structure Pixel where
  col : Fin 8
  row : Row
  deriving DecidableEq, Repr

/-- The coordinate of a data word; none where x or y is outside 1..8 (42_bitmap.md R202). -/
def pixelOf (w : Word) : Option Pixel :=
  match slotOf (xField w).toNat, slotOf (yField w).toNat with
  | some x, some y => some ⟨x, y⟩
  | _, _ => none

/-- The coordinates of a list; none where one is invalid (42_bitmap.md R202: the list is checked whole). -/
def pixelsOf : List Word → Option (List Pixel)
  | [] => some []
  | w :: ws =>
    match pixelOf w, pixelsOf ws with
    | some p, some ps => some (p :: ps)
    | _, _ => none

/-- A data word with a nonzero bit in 31:8 (42_bitmap.md R202). -/
def badDataWord (w : Word) : Bool := dataHighField w != 0

/-! ## The frames of the configuration commands (41_driver_protocol.md R161 to R165, R168) -/

/-- `INTENSITY_PAYLOAD(level)` (00_scope.md R6). -/
def intensityPayload (c : Config) (level : BitVec 4) : Byte := c.intensityPayload[level.toNat]'(by omega)

/-- R161 -/
def decodeOffFrame (c : Config) : Frame := mkFrame c.regDecode c.valDecodeOff

/-- R162 -/
def intensityFrame (c : Config) (level : BitVec 4) : Frame := mkFrame c.regIntensity (intensityPayload c level)

/-- R163 -/
def scanLimitFrame (c : Config) : Frame := mkFrame c.regScanLimit c.valScanAll8

/-- R164 -/
def opmodeFrame (c : Config) (on : Bool) : Frame := mkFrame c.regShutdown (if on then c.valNormal else c.valShutdown)

/-- R165 -/
def displayTestFrame (c : Config) (on : Bool) : Frame :=
  mkFrame c.regDisplayTest (if on then c.valTestOn else c.valTestOff)

/-- `CLEAR_VALUE` at a row's address (00_scope.md R6, 41_driver_protocol.md R170). -/
def clearFrame (r : Row) : Frame := mkFrame (rowAddr r) 0x00

end Sys2Proof.Machine
end

