-- ==== Sys2Proof/Machine/Ops.lean ====
section
/-! DEFINITION. The shared operations: byte stores, wire and receiver, slave-select and transmit register, shifter, respond and raise, reset input, and the engine of an executing command. -/

namespace Sys2Proof.Machine

/-! ## Byte stores in canonical form (log 12) -/

/-- The byte listed at `a`. -/
def Memory.lookup : Memory → Nat → Option Byte
  | [], _ => none
  | (k, v) :: m, a => if k = a then some v else Memory.lookup m a

/-- List `v` at `a`, keeping the addresses rising. -/
def Memory.put : Memory → Nat → Byte → Memory
  | [], a, v => [(a, v)]
  | (k, u) :: m, a, v =>
    if a < k then (a, v) :: (k, u) :: m else if a = k then (a, v) :: m else (k, u) :: Memory.put m a v

/-- Unlist `a`. -/
def Memory.drop : Memory → Nat → Memory
  | [], _ => []
  | (k, u) :: m, a => if a = k then m else (k, u) :: Memory.drop m a

/-- Addresses strictly rising, each above the bound. -/
def Memory.risingFrom : Nat → Memory → Bool
  | _, [] => true
  | lo, (k, _) :: m => decide (lo ≤ k) && Memory.risingFrom (k + 1) m

/-- The canonical form of the frame buffer: rows 1..8 rising, and no row listed at 0x00, which an unlisted row reads as. -/
def Memory.wf (m : Memory) : Bool :=
  Memory.risingFrom 1 m && m.all fun c => decide (c.1 ≤ 8) && c.2 != 0

/-- The canonical form of the driver image: 8-bit addresses rising. -/
def Memory.drvWf (m : Memory) : Bool :=
  Memory.risingFrom 0 m && m.all fun c => decide (c.1 < 256)

/-- A frame-buffer row's content; an unlisted row is 0x00, the reset content (10_state.md R22). -/
def Memory.read (m : Memory) (a : Nat) : Byte := (Memory.lookup m a).getD 0x00

/-- Set a frame-buffer row; writing 0x00 unlists it. -/
def Memory.write (m : Memory) (a : Nat) (v : Byte) : Memory :=
  if v = 0x00 then Memory.drop m a else Memory.put m a v

/-- `MemRead(r, 1) = FB[r]` (00_scope.md R10, 20_memory.md R60). -/
def State.readRow (s : State) (r : Row) : Byte := Memory.read s.fb (rowNumber r)

/-- `MemWrite(r, 1, v)`: `FB[r] <- v` (00_scope.md R10, 20_memory.md R60). -/
def State.writeRow (s : State) (r : Row) (v : Byte) : State := { s with fb := Memory.write s.fb (rowNumber r) v }

/-- `DRV[a]`: none is `unknown` (10_state.md R37). -/
def State.drvAt (s : State) (a : Byte) : Option Byte := Memory.lookup s.drv a.toNat

/-! ## The wire and the receiver (40_transaction.md R130, R131) -/

/-- The bits of RXBITS read first-to-last as bits 15..0. -/
def frameOfBits (bits : List Bool) : Frame :=
  bits.foldl (fun f b => f <<< 1 ||| (BitVec.ofBool b).setWidth 16) 0

/-- A whole frame is latched: FRAMES gains it and DRV takes its data byte at its address byte. -/
def latchFrame (f : Frame) (s : State) : State :=
  { s with frames := s.frames ++ [.full f], drv := Memory.put s.drv (frameAddr f).toNat (frameData f) }

/-- A short frame is recorded, and every DRV entry becomes unknown. -/
def latchPartial (n : Nat) (s : State) : State := { s with frames := s.frames ++ [.partialOf n], drv := [] }

/-- The receiver's step on a wire event (R131). -/
def receive (e : WireEvent) (s : State) : State :=
  match e with
  | .ssFall => { s with rxbits := [] }
  | .bit b => if s.ssn then s else { s with rxbits := s.rxbits ++ [b] }
  | .ssRise =>
    if s.rxbits.length = 16 then latchFrame (frameOfBits s.rxbits) s else latchPartial s.rxbits.length s

/-- `emit(e)`: append to TRACE; the receiver follows (R130, R131). -/
def emit (e : WireEvent) (s : State) : State := receive e { s with trace := s.trace ++ [e] }

/-! ## Slave-select and transmit register (40_transaction.md R120 to R124) -/

/-- `S.SSN <- 0; emit(SS_FALL)` -/
def selectLine (s : State) : State := emit .ssFall { s with ssn := false }

/-- `S.TXDR <- f; S.TXE <- 0; S.WR <- 1` -/
def writeTxdr (f : Frame) (s : State) : State := { s with txdr := f, txe := false, wr := true }

/-- `S.SSN <- 1; S.WR <- 0; emit(SS_RISE)` -/
def deselectLine (s : State) : State := emit .ssRise { s with ssn := true, wr := false }

/-! ## The shifter (40_transaction.md R126 to R129) -/

/-- LOAD (R126). -/
def load (s : State) : State := { s with shr := s.txdr, cnt := 16, txe := true, bsy := true }

/-- SHIFT (R127). -/
def shiftBit (s : State) : State :=
  let b := s.shr.getLsbD 15
  { emit (.bit b) s with shr := s.shr <<< 1, cnt := s.cnt - 1 }

/-- FINISH (R128). -/
def finish (s : State) : State := { s with bsy := false }

/-- The shifter's one enabled step, if any (R129). -/
def shifterStep (s : State) : State :=
  if s.loadEnabled then load s else if s.shiftEnabled then shiftBit s else if s.finishEnabled then finish s else s

/-! ## Completing a command (40_transaction.md R135; 60_exceptions.md R243) -/

/-- `respond(code)`: `S.RESP <- code; S.SEQ <- 0; S.CMDST <- IDLE`, and nothing of the command is left. -/
def respond (code : Resp) (s : State) : State :=
  { s with resp := code, seq := 0, cmdst := .idle, work := [] }

/-- `raise E`: a protocol fault also sets FAULT (60_exceptions.md R242, R243). A command's checks and its `raise` are one
step with its decode (log 22). -/
def raise (code : Resp) (s : State) : State :=
  respond code { s with faulted := s.faulted || code.isProtocolFault }

/-! ## The reset input (70_reset_and_hazards.md R270, R272) -/

/-- Slave-select is driven high, with SS_RISE, where it is low (R272). -/
def releaseLine (s : State) : State := if s.ssn then s else emit .ssRise { s with ssn := true }

/-- Every block field takes its reset value (R270); the observation state, the configuration record and the outside
world's plan stay (R272, R273, log 6, log 11). -/
def clearBlock (s : State) : State :=
  { s with
    fb := [], ssn := true, txdr := 0, txe := true, bsy := false, shr := 0, cnt := 0, wr := false
    initd := false, faulted := false, resp := .ok, cmdst := .idle, seq := 0, list := .empty, work := [] }

/-- The reset input is asserted (R272): a command in execution is abandoned, a list being collected is dropped. -/
def resetInput (s : State) : State := clearBlock (releaseLine s)

/-- The reset that is due is taken; the next one is counted from here (log 3). -/
def takeReset (s : State) : State := resetInput { s with resets := s.resets.tail }

/-! ## The engine of an executing command (log 1, log 10) -/

/-- The frame a transaction sends, read when the transaction starts (43_render.md R220, R221, R224). -/
def sourceFrame (s : State) : FrameSource → Frame
  | .const f => f
  | .row r mask => mkFrame (rowAddr r) (s.readRow r &&& mask)

/-- The four steps of `txn(f)` (40_transaction.md R120). -/
def txnSteps (f : Frame) : List MicroOp := [.select, .write f, .wait, .deselect]

/-- One step of the block: the next statement of the executing command. The wait does nothing while its condition is
false: the block is held. -/
def blockStep (s : State) : State :=
  match s.work with
  | [] => s
  | .start seq src :: rest => { s with seq := seq, work := txnSteps (sourceFrame s src) ++ rest }
  | .select :: rest => { selectLine s with work := rest }
  | .write f :: rest => { writeTxdr f s with work := rest }
  | .wait :: rest => if s.shiftDone then { s with work := rest } else s
  | .deselect :: rest => { deselectLine s with work := rest }
  | .setInit :: rest => { s with initd := true, work := rest }
  | .respond code :: _ => respond code s

/-- One step while the host is held: the shifter's, where one is enabled, else the block's. In every state a run
reaches at most one of the two is enabled (log 10). -/
def microStep (s : State) : State := if s.shifterEnabled then shifterStep s else blockStep s

/-- One step nearer to the next reset. -/
def nearer : List Nat → List Nat
  | [] => []
  | n :: ns => (n - 1) :: ns

/-- One step of the machine passes. -/
def tick (s : State) : State := { s with resets := nearer s.resets }

/-- One step of the machine while a command executes; the reset input wins over it (70_reset_and_hazards.md R272). -/
def advance (s : State) : State := if s.resets.head? = some 0 then takeReset s else microStep (tick s)

/-- Up to `n` steps, ending as soon as the command is over (completed, or abandoned by a reset). -/
def drain : Nat → State → State
  | 0, s => s
  | n + 1, s => if s.cmdst = .exec then drain n (advance s) else s

/-- Enough steps for any command of so many statements: a transaction takes 23, a wait at most 51. -/
def drainBound (ops : List MicroOp) : Nat := 24 * ops.length + 60

/-- A command whose statements are `ops` enters EXEC and runs to its end (40_transaction.md R133, R135; log 1). -/
def runCommand (ops : List MicroOp) (s : State) : State :=
  drain (drainBound ops) { s with cmdst := .exec, work := ops }

/-- A composite command: `bus_idle()` is checked once, before any effect (40_transaction.md R120; 92_eei_decisions.md D18);
then its statements run, and it responds OK. -/
def composite (ops : List MicroOp) (s : State) : State :=
  if s.busIdle then runCommand (ops ++ [.respond .ok]) s else raise .busNotIdle s

/-- The statements of a command of one fixed frame: SEQ is 0 in it (log 21). -/
def frameSteps (f : Frame) : List MicroOp := [.start 0 (.const f)]

/-- A composite command of one fixed frame. -/
def sendFrame (f : Frame) (s : State) : State := composite (frameSteps f) s

end Sys2Proof.Machine
end

