-- ==== Sys2Proof/Machine/Bitmap.lean ====
section
/-! DEFINITION. The coordinate translator's command TRANSLATE_LIST: its header and its data words (42_bitmap.md R200 to R206). -/

namespace Sys2Proof.Machine

/-- `FB[y] <- FB[y] | bitmask(x)` (R201). -/
def setPixel (s : State) (p : Pixel) : State := s.writeRow p.row (s.readRow p.row ||| bitmask p.col)

/-- R201 on the whole list of data words: checked whole, then every pixel set in order. -/
def translate (ws : List Word) (s : State) : State :=
  if ws.any badDataWord then raise .illegalCommand s
  else
    match pixelsOf ws with
    | none => raise .invalidCoordinate s
    | some ps => respond .ok (ps.foldl setPixel s)

/-- TRANSLATE_LIST's header (R200): an empty list completes at once; any other is collected. One step (log 22). -/
def execTranslateList (count : Byte) (s : State) : Host.Outcome State Fault Refusal :=
  .next (if count = 0 then respond .ok s else { s with list := ⟨count, []⟩, cmdst := .collect })

/-- TRANSLATE_LIST's data word (R200): collected, and the list executes with its last one; LIST is then empty again
(log 5). Outside COLLECT the port never takes a word so (log 13). One step (log 22). -/
def execTranslateWord (word : Word) (s : State) : Host.Outcome State Fault Refusal :=
  .next (
    if s.cmdst = .collect then
      let ws := s.list.words ++ [word]
      if ws.length = s.list.count.toNat then translate ws { s with cmdst := .exec, list := .empty }
      else { s with list := ⟨s.list.count, ws⟩ }
    else raise .illegalCommand s)

end Sys2Proof.Machine
end

