-- ==== Sys2Proof/Machine/Bus.lean ====
section
/-! DEFINITION. The SPI transaction controller's commands: TRANSMIT and the bus primitives (40_transaction.md R121 to R124, R137). -/

namespace Sys2Proof.Machine

/-- TRANSMIT (R137). -/
def execTransmit (frame : Frame) (s : State) : Host.Outcome State Fault Refusal :=
  .next (sendFrame frame s)

/-- BUS_SELECT (R121). Decode, effect and response are one step, which no reset can cut (DESIGN CHOICE, log 22). -/
def execBusSelect (s : State) : Host.Outcome State Fault Refusal :=
  .next (if s.ssn then respond .ok (selectLine s) else raise .selectWhileSelected s)

/-- BUS_WRITE (R122): completes at once, without waiting for the shift; one step (log 22). -/
def execBusWrite (frame : Frame) (s : State) : Host.Outcome State Fault Refusal :=
  .next (
    if s.ssn then raise .writeWithoutSelect s
    else if s.wr then raise .secondWrite s
    else respond .ok (writeTxdr frame s))

/-- BUS_WAIT (R123). -/
def execBusWait (s : State) : Host.Outcome State Fault Refusal :=
  .next (runCommand [.wait, .respond .ok] s)

/-- BUS_DESELECT (R124): the three checks in their order; one step (log 22). -/
def execBusDeselect (s : State) : Host.Outcome State Fault Refusal :=
  .next (
    if s.ssn then raise .deselectNotSelected s
    else if !s.wr then raise .deselectEmpty s
    else if !s.shiftDone then raise .deselectMidShift s
    else respond .ok (deselectLine s))

end Sys2Proof.Machine
end

