-- ==== Sys2Proof/Machine/Driver.lean ====
section
/-! DEFINITION. The display-driver register encoder's commands (41_driver_protocol.md R160 to R171). -/

namespace Sys2Proof.Machine

/-- WRITE_REG (R160). -/
def execWriteReg (addr value : Byte) (s : State) : Host.Outcome State Fault Refusal :=
  .next (sendFrame (mkFrame addr value) s)

/-- DECODE_OFF (R161). -/
def execDecodeOff (s : State) : Host.Outcome State Fault Refusal :=
  .next (sendFrame (decodeOffFrame s.cfg) s)

/-- SET_INTENSITY (R162). -/
def execSetIntensity (level : BitVec 4) (s : State) : Host.Outcome State Fault Refusal :=
  .next (sendFrame (intensityFrame s.cfg level) s)

/-- SCAN_LIMIT_ALL (R163). -/
def execScanLimitAll (s : State) : Host.Outcome State Fault Refusal :=
  .next (sendFrame (scanLimitFrame s.cfg) s)

/-- SET_OPMODE (R164). -/
def execSetOpmode (on : Bool) (s : State) : Host.Outcome State Fault Refusal :=
  .next (sendFrame (opmodeFrame s.cfg on) s)

/-- SET_DISPLAY_TEST (R165). -/
def execSetDisplayTest (on : Bool) (s : State) : Host.Outcome State Fault Refusal :=
  .next (sendFrame (displayTestFrame s.cfg on) s)

/-- WRITE_ROW (R166, R167): the bus is checked before the operand (60_exceptions.md R247). -/
def execWriteRow (row : BitVec 4) (value : Byte) (s : State) : Host.Outcome State Fault Refusal :=
  .next (
    if s.busIdle then
      match rowOperand row with
      | none => raise .invalidRow s
      | some r => sendFrame (mkFrame (rowAddr r) value) s
    else raise .busNotIdle s)

/-- The frames of MATRIX_INIT before its row frames, in their fixed order (R168, R169). -/
def initFrames (c : Config) : List Frame :=
  [decodeOffFrame c, intensityFrame c c.initIntensity, scanLimitFrame c, opmodeFrame c true, displayTestFrame c false]

/-- One `txn` per frame, with SEQ counting on from `seq`. -/
def sendAll : Nat → List Frame → List MicroOp
  | _, [] => []
  | seq, f :: fs => .start seq (.const f) :: sendAll (seq + 1) fs

/-- The statements of MATRIX_INIT (R168): thirteen frames, with SEQ 1 to 13, then INITD. -/
def matrixInitSteps (c : Config) : List MicroOp :=
  sendAll 1 (initFrames c ++ allRows.map clearFrame) ++ [.setInit]

/-- MATRIX_INIT (R168). -/
def execMatrixInit (s : State) : Host.Outcome State Fault Refusal :=
  .next (composite (matrixInitSteps s.cfg) s)

/-- The statements of MATRIX_CLEAR (R170): eight frames, with SEQ 1 to 8. -/
def matrixClearSteps : List MicroOp := sendAll 1 (allRows.map clearFrame)

/-- MATRIX_CLEAR (R170). -/
def execMatrixClear (s : State) : Host.Outcome State Fault Refusal :=
  .next (composite matrixClearSteps s)

end Sys2Proof.Machine
end

