-- ==== Sys2Proof/Machine/Render.lean ====
section
/-! DEFINITION. The frame-buffer row multiplexer's commands (43_render.md R220 to R225). -/

namespace Sys2Proof.Machine

/-- One `txn` per row under a column mask, with SEQ holding the row being sent (R220, R221, R224). -/
def sendRows (mask : Byte) : List MicroOp := allRows.map fun r => .start (rowNumber r) (.row r mask)

/-- RENDER_FULL (R220): the whole rows, unmasked. -/
def execRenderFull (s : State) : Host.Outcome State Fault Refusal :=
  .next (composite (sendRows 0xFF) s)

/-- The statements of RENDER_ROW (R222): SEQ is 1 whatever the row (log 21). -/
def renderRowSteps (r : Row) : List MicroOp := [.start 1 (.row r 0xFF)]

/-- RENDER_ROW (R222, R223): the bus is checked before the operand (60_exceptions.md R247). -/
def execRenderRow (row : BitVec 4) (s : State) : Host.Outcome State Fault Refusal :=
  .next (
    if s.busIdle then
      match rowOperand row with
      | none => raise .invalidRow s
      | some r => composite (renderRowSteps r) s
    else raise .busNotIdle s)

/-- RENDER_COLS (R224): every column above `col` is masked off in a transient copy. -/
def execRenderCols (col : Byte) (s : State) : Host.Outcome State Fault Refusal :=
  .next (composite (sendRows (colmask col)) s)

end Sys2Proof.Machine
end

