-- ==== Sys2Proof/Machine/Dispatch.lean ====
section
/-! DEFINITION. One arm per command. -/

namespace Sys2Proof.Machine

def exec (i : Instr) (s : State) : Host.Outcome State Fault Refusal :=
  match i with
  | .transmit frame => Sys2Proof.Machine.execTransmit frame s
  | .writeReg addr value => Sys2Proof.Machine.execWriteReg addr value s
  | .decodeOff => Sys2Proof.Machine.execDecodeOff s
  | .setIntensity level => Sys2Proof.Machine.execSetIntensity level s
  | .scanLimitAll => Sys2Proof.Machine.execScanLimitAll s
  | .setOpmode on => Sys2Proof.Machine.execSetOpmode on s
  | .setDisplayTest on => Sys2Proof.Machine.execSetDisplayTest on s
  | .writeRow row value => Sys2Proof.Machine.execWriteRow row value s
  | .matrixInit => Sys2Proof.Machine.execMatrixInit s
  | .matrixClear => Sys2Proof.Machine.execMatrixClear s
  | .translateList count => Sys2Proof.Machine.execTranslateList count s
  | .translateWord word => Sys2Proof.Machine.execTranslateWord word s
  | .renderFull => Sys2Proof.Machine.execRenderFull s
  | .renderRow row => Sys2Proof.Machine.execRenderRow row s
  | .renderCols col => Sys2Proof.Machine.execRenderCols col s
  | .busSelect => Sys2Proof.Machine.execBusSelect s
  | .busWrite frame => Sys2Proof.Machine.execBusWrite frame s
  | .busWait => Sys2Proof.Machine.execBusWait s
  | .busDeselect => Sys2Proof.Machine.execBusDeselect s

end Sys2Proof.Machine
end

