-- ==== Sys2Proof/Machine/HostPort.lean ====
section
/-! DEFINITION. The host port and who moves next (10_state.md R29 to R31; 30_encoding.md R90, R100; 20_memory.md R67; 70_reset_and_hazards.md R272, R287, R288). -/

namespace Sys2Proof.Machine

/-- What a host action is at the port. -/
inductive PortAccess where
  /-- a write of CMD -/
  | command (w : Word)
  /-- a read of STATUS -/
  | status
  /-- the reset input, between two other actions -/
  | reset
  /-- an access the port refuses (10_state.md R31) -/
  | refuse (r : Refusal)
  deriving DecidableEq, Repr

/-- The address of CMD (20_memory.md R73). -/
def cmdAddr (c : Config) : Nat := c.cmdBase

/-- The address of STATUS (20_memory.md R73). -/
def statusAddr (c : Config) : Nat := c.cmdBase + 4

/-- Which access of the port an action is (10_state.md R29, R31; 20_memory.md R64). -/
def portAccess (c : Config) : HostAction → PortAccess
  | .write addr width data =>
    if width ≠ 32 then .refuse .accessWidth
    else if addr = cmdAddr c then .command data
    else if addr = statusAddr c then .refuse .statusWrite
    else .refuse .unknownOffset
  | .read addr width =>
    if width ≠ 32 then .refuse .accessWidth
    else if addr = cmdAddr c then .refuse .cmdRead
    else if addr = statusAddr c then .status
    else .refuse .unknownOffset
  | .reset => .reset

/-- A word written to CMD while no command executes (30_encoding.md R90): a data word while a list is being collected,
else a new command; an illegal word ends with ILLEGAL_COMMAND and has no other effect (R97), in one step (log 22). -/
def takeWord (w : Word) (s : State) : Host.Outcome State Fault Refusal :=
  match decodePort (decide (s.cmdst = .collect)) w with
  | .ok i => exec i s
  | .error _ => .next (raise .illegalCommand s)

/-- A read of STATUS: no side effect on the block; the host keeps the value (40_transaction.md R134). -/
def readStatus (s : State) : State := { s with reads := s.reads ++ [s.status] }

/-- The host performs one action (70_reset_and_hazards.md R288). -/
def hostMove (a : HostAction) (s : State) : Host.Outcome State Fault Refusal :=
  match portAccess s.cfg a with
  | .command w => takeWord w s
  | .status => .next (readStatus s)
  | .reset => .next (resetInput s)
  | .refuse r => .refused r

/-- Who moves next where both can: the plan, then the free value (log 2). -/
def nextTurn (s : State) : Turn :=
  match s.sched with
  | t :: _ => t
  | [] => Config.freeTurn s.draws

/-- That choice is used up. -/
def useTurn (s : State) : State :=
  match s.sched with
  | _ :: ts => { s with sched := ts }
  | [] => { s with draws := s.draws + 1 }

/-- Nobody can move: the block waits (70_reset_and_hazards.md R271), for a reset that is due at the latest; with none due
a list being collected is stuck (R287). -/
def nobodyMoves (s : State) : Host.Outcome State Fault Refusal :=
  if s.cmdst = .collect ∧ s.resets = [] then .fault .stuckCollecting else .next s

/-- The next move where the host is not held: the host's next action or a step of the shifter (20_memory.md R67). -/
def freeMove (s : State) : Host.Outcome State Fault Refusal :=
  match s.program with
  | [] => if s.shifterEnabled then .next (shifterStep s) else nobodyMoves s
  | a :: rest =>
    if s.shifterEnabled then
      match nextTurn s with
      | .shifter => .next (shifterStep (useTurn s))
      | .host => hostMove a { useTurn s with program := rest }
    else hostMove a { s with program := rest }

/-- The next move while a command executes: the host is held (40_transaction.md R133). -/
def heldMove (s : State) : Host.Outcome State Fault Refusal :=
  if s.shifterEnabled ∨ s.work ≠ [] then .next (microStep s) else .fault .lostCommand

/-- One step of the machine. The configuration record is checked before use (00_scope.md R7), and the reset input wins
over every other step (70_reset_and_hazards.md R272). -/
def nextStep (s : State) : Host.Outcome State Fault Refusal :=
  if s.cfg.wf then
    if s.resets.head? = some 0 then .next (takeReset s)
    else if s.cmdst = .exec then heldMove (tick s)
    else freeMove (tick s)
  else .refused .badConfiguration

/-- `s` with a write of `w` to CMD as the very next thing that happens (log 7, log 16): the host's next action, its turn,
no reset on its way, and no command or list in progress. -/
def offerCommand (w : Word) (s : State) : State :=
  { s with
    program := .write (cmdAddr s.cfg) 32 w :: s.program
    sched := .host :: s.sched
    resets := []
    cmdst := .idle
    list := .empty
    work := [] }

end Sys2Proof.Machine
end

