-- ==== Sys2Proof/Machine/Assembler.lean ====
section
/-! DEFINITION. The assembler's text (30_encoding.md R101): one command per line, decimal or 0x numbers, comments after a semicolon. -/

namespace Sys2Proof.Machine

/-- A lexeme of a line. -/
inductive Token where
  | name (cs : List Char)
  | num (n : Nat)
  | comma
  | openList
  | closeList
  | openPair
  | closePair
  /-- anything the syntax does not know -/
  | bad
  deriving DecidableEq, Repr

/-- A digit's value, in decimal and in hexadecimal. -/
def digitValue (c : Char) : Option Nat :=
  if '0' ≤ c ∧ c ≤ '9' then some (c.toNat - '0'.toNat)
  else if 'a' ≤ c ∧ c ≤ 'f' then some (c.toNat - 'a'.toNat + 10)
  else if 'A' ≤ c ∧ c ≤ 'F' then some (c.toNat - 'A'.toNat + 10)
  else none

/-- Digits in a base, after those worth `acc`. -/
def digitsFrom (base acc : Nat) : List Char → Option Nat
  | [] => some acc
  | c :: cs =>
    match digitValue c with
    | some d => if d < base then digitsFrom base (base * acc + d) cs else none
    | none => none

/-- A number: hexadecimal with the prefix 0x, else decimal. -/
def numberOf : List Char → Option Nat
  | '0' :: 'x' :: c :: cs => digitsFrom 16 0 (c :: cs)
  | cs => digitsFrom 10 0 cs

/-- The token of a collected run of letters, digits and underscores; none for the empty run. -/
def tokenOfRun (run : List Char) : List Token :=
  match run with
  | [] => []
  | c :: _ =>
    if c.isDigit then
      match numberOf run with
      | some n => [.num n]
      | none => [.bad]
    else [.name run]

/-- The token of a punctuation mark; white space gives none. -/
def tokenOfMark (c : Char) : List Token :=
  if c.isWhitespace then []
  else if c = ',' then [.comma]
  else if c = '[' then [.openList]
  else if c = ']' then [.closeList]
  else if c = '(' then [.openPair]
  else if c = ')' then [.closePair]
  else [.bad]

/-- The tokens of a line, `run` being the letters and digits just read, last first; a semicolon starts a comment. -/
def tokensOf (run : List Char) : List Char → List Token
  | [] => tokenOfRun run.reverse
  | c :: cs =>
    if c.isAlphanum || c == '_' then tokensOf (c :: run) cs
    else if c = ';' then tokenOfRun run.reverse
    else tokenOfRun run.reverse ++ tokenOfMark c ++ tokensOf [] cs

/-- Numbers separated by commas, to the end of the line. -/
def numbersOf : List Token → Option (List Nat)
  | [] => some []
  | [.num n] => some [n]
  | .num n :: .comma :: .num m :: rest => (numbersOf (.num m :: rest)).map (n :: ·)
  | _ => none

/-- Pairs separated by commas, to the closing bracket that ends the line. -/
def pairsOf : List Token → Option (List (Nat × Nat))
  | [.closeList] => some []
  | [.openPair, .num x, .comma, .num y, .closePair, .closeList] => some [(x, y)]
  | .openPair :: .num x :: .comma :: .num y :: .closePair :: .comma :: .openPair :: rest =>
    (pairsOf (.openPair :: rest)).map ((x, y) :: ·)
  | _ => none

/-- The command of a mnemonic and its number operands. -/
def commandOf (mnemonic : List Char) (operands : List Nat) : Option Asm :=
  match operands with
  | [] =>
    if mnemonic = "DECODE_OFF".toList then some .decodeOff
    else if mnemonic = "SCAN_LIMIT_ALL".toList then some .scanLimitAll
    else if mnemonic = "MATRIX_INIT".toList then some .matrixInit
    else if mnemonic = "MATRIX_CLEAR".toList then some .matrixClear
    else if mnemonic = "RENDER_FULL".toList then some .renderFull
    else if mnemonic = "BUS_SELECT".toList then some .busSelect
    else if mnemonic = "BUS_WAIT".toList then some .busWait
    else if mnemonic = "BUS_DESELECT".toList then some .busDeselect
    else if mnemonic = "NORMAL_OP".toList then some .normalOp
    else if mnemonic = "SHUTDOWN".toList then some .shutdown
    else if mnemonic = "TEST_ON".toList then some .testOn
    else if mnemonic = "TEST_OFF".toList then some .testOff
    else if mnemonic = "RENDER_NONE".toList then some .renderNone
    else none
  | [n] =>
    if mnemonic = "TRANSMIT".toList then some (.transmit n)
    else if mnemonic = "SET_INTENSITY".toList then some (.setIntensity n)
    else if mnemonic = "SET_OPMODE".toList then some (.setOpmode n)
    else if mnemonic = "SET_DISPLAY_TEST".toList then some (.setDisplayTest n)
    else if mnemonic = "RENDER_ROW".toList then some (.renderRow n)
    else if mnemonic = "RENDER_COLS".toList then some (.renderCols n)
    else if mnemonic = "BUS_WRITE".toList then some (.busWrite n)
    else none
  | [n, m] =>
    if mnemonic = "WRITE_REG".toList then some (.writeReg n m)
    else if mnemonic = "WRITE_ROW".toList then some (.writeRow n m)
    else if mnemonic = "TRANSLATE".toList then some (.translate n m)
    else none
  | _ => none

/-- A line's command; an empty line or a comment has none, and a line outside the syntax is refused. -/
def parseLine (line : List Char) : Option (List Asm) :=
  match tokensOf [] line with
  | [] => some []
  | .name m :: .openList :: rest =>
    if m = "TRANSLATE_LIST".toList then (pairsOf rest).map fun ps => [.translateList ps] else none
  | .name m :: rest =>
    match numbersOf rest with
    | some ns => (commandOf m ns).map fun a => [a]
    | none => none
  | _ => none

/-- The lines of a text, `line` being what was read of the current one, last first. -/
def linesOf (line : List Char) : List Char → List (List Char)
  | [] => [line.reverse]
  | c :: cs => if c = '\n' then line.reverse :: linesOf [] cs else linesOf (c :: line) cs

/-- The commands of a program text; none where one line is outside the syntax. -/
def parseProgram : List (List Char) → Option (List Asm)
  | [] => some []
  | l :: ls =>
    match parseLine l, parseProgram ls with
    | some as, some rest => some (as ++ rest)
    | _, _ => none

/-- The command words of a program text; none where the assembler refuses it. -/
def assembleText (source : String) : Option (List Word) :=
  match parseProgram (linesOf [] source.toList) with
  | some as => assembleAll as
  | none => none

end Sys2Proof.Machine
end

