-- ==== Sys2Proof/Safety.lean ====
section
/-! DEFINITION. The terms claims use: the end of a run (70_reset_and_hazards.md R287), clean_entry (R289), the invariants (10_state.md R36), the shape of the wire (40_transaction.md R130), and the state a sent frame leaves. -/

namespace Sys2Proof.Machine

/-! ## Runs (70_reset_and_hazards.md R287, R289) -/

/-- A fault state (60_exceptions.md R242): never a good final state. -/
abbrev State.isFaultState (s : State) : Prop := s.faulted = true

/-- The run has ended (R287): no host action left, IDLE, and no shifter step enabled. -/
abbrev State.ended (s : State) : Prop :=
  s.program = [] ∧ s.cmdst = .idle ∧ s.bsy = false ∧ s.txe = true

/-- A good end (R287): no fault recorded and no transaction left open. -/
abbrev State.goodEnd (s : State) : Prop := s.ended ∧ s.faulted = false ∧ s.ssn = true

/-- The run is stuck (R287): a list is being collected and the host has no action left. -/
abbrev State.stuck (s : State) : Prop := s.program = [] ∧ s.cmdst = .collect

/-- `clean_entry` (R289). -/
abbrev State.cleanEntry (s : State) : Prop :=
  s.cmdst = .idle ∧ s.seq = 0 ∧ s.list = .empty ∧ s.busIdle = true ∧ s.cnt = 0#5 ∧ s.faulted = false

/-- What is observed of an end state (R287). -/
structure Observation where
  fb : Memory
  status : Word
  trace : List WireEvent
  frames : List Latched
  drv : Memory
  deriving DecidableEq, Repr

/-- The observation of a run that ended in `s` (R287). -/
def State.observe (s : State) : Observation := ⟨s.fb, s.status, s.trace, s.frames, s.drv⟩

/-- Commands in a row, with nothing between them. -/
def execSeq : List Instr → State → Host.Outcome State Fault Refusal
  | [], s => .next s
  | i :: is, s =>
    match exec i s with
    | .next t => execSeq is t
    | .fault r => .fault r
    | .refused r => .refused r

/-! ## A frame on the wire -/

/-- The bits of a frame in the order they go out, bit 15 first (20_memory.md R61). -/
def frameBits (f : Frame) : List Bool :=
  [f.getLsbD 15, f.getLsbD 14, f.getLsbD 13, f.getLsbD 12, f.getLsbD 11, f.getLsbD 10, f.getLsbD 9, f.getLsbD 8,
   f.getLsbD 7, f.getLsbD 6, f.getLsbD 5, f.getLsbD 4, f.getLsbD 3, f.getLsbD 2, f.getLsbD 1, f.getLsbD 0]

/-- The wire events of one whole transaction: SS_FALL, sixteen BITs, SS_RISE (40_transaction.md R130). -/
def txnEvents (f : Frame) : List WireEvent := .ssFall :: (frameBits f).map .bit ++ [.ssRise]

/-- The state one whole transaction of `f` leaves, begun on an idle bus: the frame in TXDR and latched, the shift register
and its counter at 0, everything else as before (40_transaction.md R120, R125, R131). -/
def sentFrame (s : State) (f : Frame) : State :=
  { s with
    txdr := f, shr := 0, cnt := 0
    trace := s.trace ++ txnEvents f
    rxbits := frameBits f
    frames := s.frames ++ [.full f]
    drv := Memory.put s.drv (frameAddr f).toNat (frameData f) }

/-- The state whole transactions of `fs` leave, in order. -/
def sentFrames (s : State) (fs : List Frame) : State := fs.foldl sentFrame s

/-- The state a completed command leaves (40_transaction.md R135): RESP written, SEQ 0, IDLE. -/
def completed (code : Resp) (s : State) : State := { s with resp := code, seq := 0, cmdst := .idle, work := [] }

/-- The frame a render sends for row r under a column mask (43_render.md R220, R224). -/
def rowFrame (s : State) (mask : Byte) (r : Row) : Frame := mkFrame (rowAddr r) (s.readRow r &&& mask)

/-! ## The invariants of 10_state.md R36 -/

/-- The four implications of R36. -/
abbrev State.busInv (s : State) : Prop :=
  (s.ssn = true → s.wr = false ∧ s.bsy = false ∧ s.txe = true ∧ s.cnt = 0#5) ∧
  (s.txe = false → s.wr = true ∧ s.bsy = false ∧ s.ssn = false) ∧
  (s.bsy = true → s.txe = true ∧ s.wr = true ∧ s.ssn = false ∧ s.cnt.toNat ≤ 16) ∧
  (s.bsy = false → s.cnt = 0#5)

/-- How many bits of the open transaction's frame have been shifted out. -/
def State.sentBits (s : State) : Nat :=
  if s.wr then (if s.bsy then 16 - s.cnt.toNat else if s.txe then 16 else 0) else 0

/-- The receiver has exactly the bits of TXDR shifted out so far in the open transaction, and SHR holds what is left. -/
abbrev State.linkInv (s : State) : Prop :=
  (s.ssn = false → s.rxbits = (frameBits s.txdr).take s.sentBits) ∧
  (s.bsy = true → s.shr = s.txdr <<< s.sentBits) ∧
  (s.bsy = false → s.shr = 0#16)

/-- Statements that begin on an idle bus and end with the response; SEQ stays within 0..13 (10_state.md R22). -/
def betweenTxns : List MicroOp → Bool
  | .start seq _ :: rest => decide (seq ≤ 13) && betweenTxns rest
  | .setInit :: rest => betweenTxns rest
  | [.respond _] => true
  | _ => false

/-- What is left of an executing command fits the bus (40_transaction.md R120): the steps of an open transaction in their
order, or statements between transactions on an idle bus, or a completion wait's remainder. -/
def workFits (s : State) : List MicroOp → Bool
  | .select :: .write _ :: .wait :: .deselect :: rest => s.busIdle && betweenTxns rest
  | .write _ :: .wait :: .deselect :: rest => !s.ssn && !s.wr && betweenTxns rest
  | .wait :: .deselect :: rest => !s.ssn && s.wr && betweenTxns rest
  | .deselect :: rest => !s.ssn && s.wr && s.shiftDone && betweenTxns rest
  | [.wait, .respond _] => true
  | [.respond _] => s.shiftDone
  | work => s.busIdle && betweenTxns work

/-- CMDST, SEQ, LIST and the rest of the executing command agree (10_state.md R21, R22; 42_bitmap.md R200). -/
abbrev State.commandInv (s : State) : Prop :=
  s.seq ≤ 13 ∧
  (s.cmdst ≠ .exec → s.seq = 0 ∧ s.work = []) ∧
  (s.cmdst = .exec → workFits s s.work = true) ∧
  (s.cmdst = .collect → s.list.words.length < s.list.count.toNat) ∧
  (s.cmdst ≠ .collect → s.list = .empty)

/-- Both byte stores are in their canonical form (log 12). -/
abbrev State.memoryInv (s : State) : Prop := Memory.wf s.fb = true ∧ Memory.drvWf s.drv = true

/-- Where the shifter ends if left to run: the rest of the frame sent, and both flags saying so. -/
def settled (s : State) : State :=
  if s.shiftDone then s
  else { s with
    txe := true, bsy := false, cnt := 0, shr := 0, rxbits := frameBits s.txdr
    trace := s.trace ++ ((frameBits s.txdr).drop s.sentBits).map .bit }

/-- The invariant every step keeps. -/
abbrev State.inv (s : State) : Prop := s.busInv ∧ s.linkInv ∧ s.commandInv ∧ s.memoryInv

/-! ## The shape of the wire (40_transaction.md R130) -/

/-- Where a wire trace stands: between transactions, or in one with n bits out. -/
inductive WirePhase where
  | closed
  | opened (n : Nat)
  deriving DecidableEq, Repr

/-- One more event under the pattern `(SS_FALL BIT^16 SS_RISE)*`; none where the pattern is broken. -/
def wireNext (phase : Option WirePhase) (e : WireEvent) : Option WirePhase :=
  match phase, e with
  | some .closed, .ssFall => some (.opened 0)
  | some (.opened n), .bit _ => if n < 16 then some (.opened (n + 1)) else none
  | some (.opened n), .ssRise => if n = 16 then some .closed else none
  | _, _ => none

/-- Where a whole trace stands under the pattern. -/
def wireScan (trace : List WireEvent) : Option WirePhase := trace.foldl wireNext (some .closed)

/-- TRACE matches the pattern, and stands where the line and the receiver say (20_memory.md R68, 40_transaction.md R130). -/
abbrev State.wireInv (s : State) : Prop :=
  wireScan s.trace = some (if s.ssn then .closed else .opened s.rxbits.length)

/-! ## What the receiver makes of a trace (40_transaction.md R131) -/

/-- The receiver's own state. -/
structure Receiver where
  rxbits : List Bool
  frames : List Latched
  drv : Memory
  deriving DecidableEq, Repr

/-- The receiver on one wire event, slave-select being low where a bit is clocked out. -/
def Receiver.next (r : Receiver) : WireEvent → Receiver
  | .ssFall => { r with rxbits := [] }
  | .bit b => { r with rxbits := r.rxbits ++ [b] }
  | .ssRise =>
    if r.rxbits.length = 16 then
      let f := frameOfBits r.rxbits
      { r with frames := r.frames ++ [.full f], drv := Memory.put r.drv (frameAddr f).toNat (frameData f) }
    else { r with frames := r.frames ++ [.partialOf r.rxbits.length], drv := [] }

/-- RXBITS, FRAMES and DRV are what a receiver makes of TRACE from the start of the run. -/
abbrev State.receiverInv (s : State) : Prop :=
  s.trace.foldl Receiver.next ⟨[], [], []⟩ = ⟨s.rxbits, s.frames, s.drv⟩

end Sys2Proof.Machine
end

