-- ==== Sys2Proof/Certificates/Slice0/Obligations.lean ====
section
/-! DEFINITION. The statements for the provers. Each docstring names the rule of spec/ it formalises. -/

open Sys2Proof Sys2Proof.Machine

/-! ## Encoding (30_encoding.md) -/

/-- R92: the word of every format, and decoding takes the same fields back out, for every command with every operand at
every value its field admits. -/
def Obligations.CommandWordsAndTheirDecoding : Prop :=
  (∀ f : Frame, encode (.transmit f) = (0x1#32 <<< 28) ||| f.setWidth 32) ∧
  (∀ a v : Byte, encode (.writeReg a v) = (0x2#32 <<< 28) ||| (a ++ v).setWidth 32) ∧
  encode .decodeOff = 0x3#32 <<< 28 ∧
  (∀ l : BitVec 4, encode (.setIntensity l) = (0x4#32 <<< 28) ||| l.setWidth 32) ∧
  encode .scanLimitAll = 0x5#32 <<< 28 ∧
  (∀ on : Bool, encode (.setOpmode on) = (0x6#32 <<< 28) ||| (BitVec.ofBool on).setWidth 32) ∧
  (∀ on : Bool, encode (.setDisplayTest on) = (0x7#32 <<< 28) ||| (BitVec.ofBool on).setWidth 32) ∧
  (∀ (r : BitVec 4) (v : Byte),
    encode (.writeRow r v) = (0x8#32 <<< 28) ||| (r.setWidth 32 <<< 8) ||| v.setWidth 32) ∧
  encode .matrixInit = 0x9#32 <<< 28 ∧ encode .matrixClear = 0xA#32 <<< 28 ∧
  (∀ n : Byte, encode (.translateList n) = (0xB#32 <<< 28) ||| n.setWidth 32) ∧
  (∀ x y : BitVec 4, encode (.translateWord (encodePair x y)) = (x.setWidth 32 <<< 4) ||| y.setWidth 32) ∧
  encode .renderFull = 0xC#32 <<< 28 ∧
  (∀ r : BitVec 4, encode (.renderRow r) = (0xD#32 <<< 28) ||| r.setWidth 32) ∧
  (∀ c : Byte, encode (.renderCols c) = (0xE#32 <<< 28) ||| c.setWidth 32) ∧
  encode .busSelect = 0xF0000000#32 ||| (0x0#32 <<< 24) ∧
  (∀ f : Frame, encode (.busWrite f) = 0xF1000000#32 ||| f.setWidth 32) ∧
  encode .busWait = 0xF0000000#32 ||| (0x2#32 <<< 24) ∧
  encode .busDeselect = 0xF0000000#32 ||| (0x3#32 <<< 24) ∧
  (∀ x y : BitVec 4, xField (encodePair x y) = x ∧ yField (encodePair x y) = y) ∧
  ∀ i : Instr, decodePort i.isDataWord (encode i) = .ok i

/-- Each legal word has one meaning: what a word decodes to encodes back to that word, so no bit of it is dropped (R91,
R97). -/
def Obligations.LegalWordEncodesBackToItself : Prop :=
  ∀ (w : Word) (i : Instr), decode w = .ok i → i.isDataWord = false ∧ encode i = w

/-- R97: a word is illegal in exactly the three cases; it is legal exactly where one row of the opcode table matches, and
then it is that row's command; and an illegal word writes ILLEGAL_COMMAND to RESP and changes nothing else. -/
def Obligations.IllegalWordsAndTheOpcodeTable : Prop :=
  (∀ (w : Word) (i : Instr), decode w = .ok i →
    ∃ t, opcodeTable.filter (fun t => t.covers w) = [t] ∧ t.mnemonic = i.mnemonic) ∧
  (∀ (w : Word) (e : Illegal), decode w = .error e → opcodeTable.filter (fun t => t.covers w) = []) ∧
  (∀ w : Word, decode w = .error .opZero ↔ opField w = 0) ∧
  (∀ w : Word, decode w = .error .subUndefined ↔ opField w = 0xF ∧ 4 ≤ (subField w).toNat) ∧
  (∀ w : Word, decode w = .error .reservedBit ↔
    ∃ t ∈ opcodeTable, opField w = opField t.pattern ∧ (opField w = 0xF → subField w = subField t.pattern) ∧
      t.covers w = false) ∧
  (∀ (s : State) (w : Word) (e : Illegal), s.cmdst = .idle → s.seq = 0 → s.work = [] → decode w = .error e →
    takeWord w s = .next { s with resp := .illegalCommand })

/-- Words written out from the tables of R91 and R95 decode to the commands they stand for, one of each format. -/
def Obligations.SampleWordsDecode : Prop :=
  decode 0x10000C01 = .ok (.transmit 0x0C01) ∧ decode 0x20000A08 = .ok (.writeReg 0x0A 0x08) ∧
  decode 0x30000000 = .ok .decodeOff ∧ decode 0x4000000F = .ok (.setIntensity 15) ∧
  decode 0x60000001 = .ok (.setOpmode true) ∧ decode 0x70000000 = .ok (.setDisplayTest false) ∧
  decode 0x80000402 = .ok (.writeRow 4 0x02) ∧ decode 0xB00000FF = .ok (.translateList 255) ∧
  decode 0xD0000009 = .ok (.renderRow 9) ∧ decode 0xE00000FF = .ok (.renderCols 255) ∧
  decode 0xF0000000 = .ok .busSelect ∧ decode 0xF100FFFF = .ok (.busWrite 0xFFFF) ∧
  decode 0x80001000 = .error .reservedBit ∧ decode 0x00000011 = .error .opZero ∧
  decode 0xF4000000 = .error .subUndefined

/-- The six pseudo-instructions of R102's table assemble to exactly the command shown, for every operand. -/
def Obligations.PseudoInstructionsExpand : Prop :=
  assemble .normalOp = assemble (.setOpmode 1) ∧ assemble .shutdown = assemble (.setOpmode 0) ∧
  assemble .testOn = assemble (.setDisplayTest 1) ∧ assemble .testOff = assemble (.setDisplayTest 0) ∧
  (∀ x y : Nat, assemble (.translate x y) = assemble (.translateList [(x, y)])) ∧
  assemble .renderNone = assemble (.renderCols 0)

/-! ## Configuration, reset, STATUS and the port -/

/-- R7: what the configuration check asks, and that the step refuses a record that breaks it. -/
def Obligations.ConfigurationIsChecked : Prop :=
  (∀ c : Config, c.wf = true ↔
    (∀ a ∈ [c.regDecode, c.regIntensity, c.regScanLimit, c.regShutdown, c.regDisplayTest],
      ∀ r : Nat, 1 ≤ r → r ≤ 8 → a ≠ BitVec.ofNat 8 r) ∧
    c.regDecode ≠ c.regIntensity ∧ c.regDecode ≠ c.regScanLimit ∧ c.regDecode ≠ c.regShutdown ∧
    c.regDecode ≠ c.regDisplayTest ∧ c.regIntensity ≠ c.regScanLimit ∧ c.regIntensity ≠ c.regShutdown ∧
    c.regIntensity ≠ c.regDisplayTest ∧ c.regScanLimit ≠ c.regShutdown ∧ c.regScanLimit ≠ c.regDisplayTest ∧
    c.regShutdown ≠ c.regDisplayTest) ∧
  (∀ c : Config, c.initIntensity.toNat ≤ 15) ∧
  (∀ s : State, s.cfg.wf = false → step s = .refused .badConfiguration)

/-- R30: each STATUS bit is the state field it names, the reserved bits read 0, the reset value, and read-only; the codes
in bits 11:8 are the numbers of 60_exceptions.md R240. -/
def Obligations.StatusRegisterLayout : Prop :=
  (∀ s : State,
    s.status.getLsbD 0 = s.txe ∧ s.status.getLsbD 1 = s.bsy ∧ s.status.getLsbD 2 = s.ssn ∧
    s.status.getLsbD 3 = s.wr ∧ s.status.getLsbD 4 = s.initd ∧ s.status.getLsbD 5 = s.faulted ∧
    s.status.extractLsb' 6 2 = 0 ∧ s.status.extractLsb' 8 4 = s.resp.code ∧ s.status.extractLsb' 12 20 = 0) ∧
  (Resp.ok.code = 0 ∧ Resp.invalidCoordinate.code = 1 ∧ Resp.invalidRow.code = 2 ∧ Resp.illegalCommand.code = 3 ∧
    Resp.busNotIdle.code = 4 ∧ Resp.selectWhileSelected.code = 5 ∧ Resp.writeWithoutSelect.code = 6 ∧
    Resp.secondWrite.code = 7 ∧ Resp.deselectEmpty.code = 8 ∧ Resp.deselectMidShift.code = 9 ∧
    Resp.deselectNotSelected.code = 10) ∧
  State.reset.status = 0x00000005 ∧
  ∀ (c : Config) (w : Word), portAccess c (.read (c.cmdBase + 4) 32) = .status ∧
    portAccess c (.write (c.cmdBase + 4) 32 w) = .refuse .statusWrite

/-- R270: every field of the block after reset, at the first reset and at any later one. -/
def Obligations.ResetValues : Prop :=
  ∀ t : State, (t = State.reset ∨ ∃ s, t = resetInput s) →
    (∀ r : Row, t.readRow r = 0x00) ∧ t.ssn = true ∧ t.txe = true ∧ t.bsy = false ∧ t.wr = false ∧
    t.initd = false ∧ t.faulted = false ∧ t.resp = .ok ∧ t.txdr = 0x0000 ∧ t.shr = 0x0000 ∧ t.cnt = 0 ∧
    t.cmdst = .idle ∧ t.seq = 0 ∧ t.list = .empty ∧ t.status = 0x00000005

/-- R270, R272: a reset that is due wins over every other step, and every field of the block takes its reset value. It
drives a low line high with SS_RISE, on which the receiver latches a whole frame or records a PARTIAL one and forgets DRV;
on a high line nothing is emitted. A command in execution is abandoned and a list being collected is dropped; TRACE and
FRAMES are kept. When a reset comes is the model's list of step counts (log 3), and that the host's remaining actions and
RXBITS stay is its reading (log 6, log 11). -/
def Obligations.ResetInputWinsAndReleasesTheLine : Prop :=
  ∀ s : State, s.cfg.wf = true → s.resets.head? = some 0 →
    ∃ t, step s = .next t ∧ t.cmdst = .idle ∧ t.work = [] ∧ t.seq = 0 ∧ t.resp = .ok ∧ t.list = .empty ∧
      (∀ r : Row, t.readRow r = 0x00) ∧ t.ssn = true ∧ t.txdr = 0x0000 ∧ t.txe = true ∧ t.bsy = false ∧
      t.shr = 0x0000 ∧ t.cnt = 0 ∧ t.wr = false ∧ t.initd = false ∧ t.faulted = false ∧ t.status = 0x00000005 ∧
      t.resets = s.resets.tail ∧
      t.program = s.program ∧ t.reads = s.reads ∧ t.cfg = s.cfg ∧ t.rxbits = s.rxbits ∧
      (s.ssn = true → t.trace = s.trace ∧ t.frames = s.frames ∧ t.drv = s.drv) ∧
      (s.ssn = false → t.trace = s.trace ++ [.ssRise] ∧
        (s.rxbits.length = 16 → t.frames = s.frames ++ [.full (frameOfBits s.rxbits)] ∧
          ∀ a : Byte, t.drvAt a = if a = frameAddr (frameOfBits s.rxbits) then some (frameData (frameOfBits s.rxbits))
            else s.drvAt a) ∧
        (s.rxbits.length ≠ 16 → t.frames = s.frames ++ [.partialOf s.rxbits.length] ∧ ∀ a : Byte, t.drvAt a = none))

/-- A reset that comes after k SHIFT steps of a TRANSMIT (70_reset_and_hazards.md R272; 95_test_vectors.md V8): the line
rises after k bits, the receiver records PARTIAL(k) for k below 16 and the frame for k = 16, and no RESP is written: every
field of the block has its reset value. The steps counted before the reset, and those to further resets, are the model's
(log 3); that the host's remaining actions stay is its reading (log 6, DEDUCED). -/
def Obligations.ResetCutsTransmitShort : Prop :=
  ∀ (s : State) (f : Frame) (k : Nat) (later : List Nat), s.busIdle = true → k ≤ 16 →
    ∃ t, exec (.transmit f) { s with resets := (4 + k) :: later } = .next t ∧ t.resets = later ∧
      t.trace = s.trace ++ (.ssFall :: ((frameBits f).take k).map .bit ++ [.ssRise]) ∧
      t.frames = s.frames ++ [if k = 16 then .full f else .partialOf k] ∧
      (∀ a : Byte, t.drvAt a =
        if k = 16 then (if a = frameAddr f then some (frameData f) else s.drvAt a) else none) ∧
      t.cmdst = .idle ∧ t.work = [] ∧ t.seq = 0 ∧ t.resp = .ok ∧ t.list = .empty ∧ t.fb = [] ∧ t.ssn = true ∧
      t.txdr = 0x0000 ∧ t.txe = true ∧ t.bsy = false ∧ t.shr = 0x0000 ∧ t.cnt = 0 ∧ t.wr = false ∧ t.initd = false ∧
      t.faulted = false ∧ t.program = s.program

/-- R289: the reset state satisfies `clean_entry`, and nothing is in flight in a state that does. -/
def Obligations.CleanEntryAtReset : Prop :=
  State.reset.cleanEntry ∧ (∀ s : State, (resetInput s).cleanEntry) ∧
  ∀ s : State, s.cleanEntry → s.shifterEnabled = false ∧ s.list.words = [] ∧ s.cmdst = .idle

/-- R31: a write of STATUS, a read of CMD, a narrower access and any other offset are refused, wherever it is the host's
move: the shifter is still, or the turn is the host's (whose turn it is is the model's, log 2). -/
def Obligations.PortRefusesOtherAccesses : Prop :=
  ∀ (s : State) (rest : List HostAction), s.cfg.wf = true → s.resets.head? ≠ some 0 → s.cmdst ≠ .exec →
    (s.shifterEnabled = false ∨ nextTurn s = .host) →
    (∀ w : Word, s.program = .write (s.cfg.cmdBase + 4) 32 w :: rest → step s = .refused .statusWrite) ∧
    (s.program = .read s.cfg.cmdBase 32 :: rest → step s = .refused .cmdRead) ∧
    (∀ (a n : Nat) (w : Word), n ≠ 32 → s.program = .write a n w :: rest → step s = .refused .accessWidth) ∧
    (∀ a n : Nat, n ≠ 32 → s.program = .read a n :: rest → step s = .refused .accessWidth) ∧
    (∀ (a : Nat) (w : Word), a ≠ s.cfg.cmdBase → a ≠ s.cfg.cmdBase + 4 → s.program = .write a 32 w :: rest →
      step s = .refused .unknownOffset) ∧
    (∀ a : Nat, a ≠ s.cfg.cmdBase → a ≠ s.cfg.cmdBase + 4 → s.program = .read a 32 :: rest →
      step s = .refused .unknownOffset)

/-- R134: whenever the host is not held, a read of STATUS gives it the register's value and changes nothing of the block,
whatever the shifter has done so far; and a host that polls until `(STATUS & 0x3) == 0x1` has waited for exactly the
condition BUS_WAIT waits for. -/
def Obligations.StatusReadHasNoSideEffect : Prop :=
  (∀ (s : State) (rest : List HostAction), s.cfg.wf = true → s.resets = [] → s.cmdst ≠ .exec →
    s.shifterEnabled = false → s.program = .read (s.cfg.cmdBase + 4) 32 :: rest →
    step s = .next { s with program := rest, reads := s.reads ++ [s.status] }) ∧
  (∀ (s : State) (rest : List HostAction), s.cfg.wf = true → s.resets = [] → s.cmdst ≠ .exec →
    s.shifterEnabled = true → nextTurn s = .host → s.program = .read (s.cfg.cmdBase + 4) 32 :: rest →
    step s = .next { useTurn s with program := rest, reads := s.reads ++ [s.status] }) ∧
  ∀ s : State, s.status &&& 0x3 = 0x1 ↔ s.bsy = false ∧ s.txe = true

/-- A step runs the decoded command: where a word written to CMD is the host's next action and it is the host's move, the
step is `exec` of what the port decodes (a data word while a list is collected, else a new command; 30_encoding.md R90,
R100), at the state with that action and that turn used up and a coming reset one step nearer; an illegal word writes
ILLEGAL_COMMAND to RESP there and does nothing else (R97). The host's actions, the turns and `withFetchWord` are the
model's (log 2, 3, 7, 16). -/
def Obligations.StepRunsTheDecodedCommand : Prop :=
  (∀ (s : State) (w : Word) (rest : List HostAction) (i : Instr), s.cfg.wf = true → s.resets.head? ≠ some 0 →
    s.cmdst ≠ .exec → s.program = .write s.cfg.cmdBase 32 w :: rest →
    decodePort (decide (s.cmdst = .collect)) w = .ok i →
    (s.shifterEnabled = false → step s = exec i { tick s with program := rest }) ∧
    (s.shifterEnabled = true → nextTurn s = .host → step s = exec i { useTurn (tick s) with program := rest })) ∧
  (∀ (s : State) (w : Word) (rest : List HostAction) (e : Illegal), s.cfg.wf = true → s.resets.head? ≠ some 0 →
    s.cmdst ≠ .exec → s.program = .write s.cfg.cmdBase 32 w :: rest →
    decodePort (decide (s.cmdst = .collect)) w = .error e →
    (s.shifterEnabled = false → step s = .next { tick s with
      program := rest, resp := .illegalCommand, seq := 0, cmdst := .idle, work := [] }) ∧
    (s.shifterEnabled = true → nextTurn s = .host → step s = .next { useTurn (tick s) with
      program := rest, resp := .illegalCommand, seq := 0, cmdst := .idle, work := [] })) ∧
  (∀ (s : State) (w : Nat) (i : Instr), s.cfg.wf = true → decodeTableWord 32 w = some i →
    ∃ u, step (s.withFetchWord 32 w) = exec i u ∧ u.program = s.program ∧ u.fb = s.fb ∧ u.ssn = s.ssn ∧
      u.txe = s.txe ∧ u.bsy = s.bsy ∧ u.wr = s.wr ∧ u.trace = s.trace ∧ u.frames = s.frames ∧ u.drv = s.drv)

/-- R133: while a command executes the host performs nothing: no action is taken and nothing is read. That this holds of the
step in which a reset comes too is the model's reading of which host write a reset drops (log 6, DEDUCED). -/
def Obligations.HostIsHeldWhileACommandExecutes : Prop :=
  ∀ s t : State, s.cmdst = .exec → step s = .next t → t.program = s.program ∧ t.reads = s.reads

/-! ## The bus primitives (40_transaction.md) -/

/-- R121: BUS_SELECT; a high line is an idle bus in every state with R36's invariants. -/
def Obligations.BusSelectAssertsTheLine : Prop :=
  encode .busSelect = 0xF0000000 ∧
  (∀ s : State, s.ssn = true →
    exec .busSelect s = .next { s with
      ssn := false, trace := s.trace ++ [.ssFall], rxbits := []
      resp := .ok, seq := 0, cmdst := .idle, work := [] }) ∧
  (∀ s : State, s.ssn = false →
    exec .busSelect s = .next { s with
      faulted := true, resp := .selectWhileSelected, seq := 0, cmdst := .idle, work := [] }) ∧
  (∀ s : State, s.busInv → s.ssn = true → s.busIdle = true) ∧
  ∃ t, exec .busSelect State.reset = .next t ∧ t.trace = [.ssFall] ∧ t.status = 0x00000001

/-- R122: BUS_WRITE, with its two errors in their order. -/
def Obligations.BusWriteFillsTheTransmitRegister : Prop :=
  (∀ f : Frame, encode (.busWrite f) = 0xF1000000 ||| f.setWidth 32) ∧
  (∀ (s : State) (f : Frame), s.ssn = true →
    exec (.busWrite f) s = .next { s with
      faulted := true, resp := .writeWithoutSelect, seq := 0, cmdst := .idle, work := [] }) ∧
  (∀ (s : State) (f : Frame), s.ssn = false → s.wr = true →
    exec (.busWrite f) s = .next { s with
      faulted := true, resp := .secondWrite, seq := 0, cmdst := .idle, work := [] }) ∧
  (∀ (s : State) (f : Frame), s.ssn = false → s.wr = false →
    exec (.busWrite f) s = .next { s with
      txdr := f, txe := false, wr := true, resp := .ok, seq := 0, cmdst := .idle, work := [] }) ∧
  ∃ t u, exec .busSelect State.reset = .next t ∧ exec (.busWrite 0x0C01) t = .next u ∧ u.status = 0x00000008

/-- R123: BUS_WAIT. Where both flags say so it completes at once; otherwise the rest of the frame goes out and both flags
are as the wait asks. The invariants of R36, and the receiver holding the bits sent so far, are premises. -/
def Obligations.BusWaitWaitsOutTheShift : Prop :=
  encode .busWait = 0xF2000000 ∧
  (∀ s : State, s.resets = [] → s.bsy = false → s.txe = true →
    exec .busWait s = .next { s with resp := .ok, seq := 0, cmdst := .idle, work := [] }) ∧
  (∀ s : State, s.resets = [] → s.busInv → s.linkInv → ¬(s.bsy = false ∧ s.txe = true) →
    exec .busWait s = .next { s with
      txe := true, bsy := false, cnt := 0, shr := 0, rxbits := frameBits s.txdr
      trace := s.trace ++ ((frameBits s.txdr).drop s.sentBits).map .bit
      resp := .ok, seq := 0, cmdst := .idle, work := [] }) ∧
  (∀ s : State, s.busInv → (s.ssn = true ∨ s.wr = false) → s.bsy = false ∧ s.txe = true) ∧
  (∀ (s t : State) (f : Frame), s.ssn = false → s.wr = false → s.bsy = false → exec (.busWrite f) s = .next t →
    t.bsy = false ∧ t.txe = false) ∧
  ∃ t u v, exec .busSelect State.reset = .next t ∧ exec (.busWrite 0x0C01) t = .next u ∧ exec .busWait u = .next v ∧
    v.status = 0x00000009 ∧ v.trace = .ssFall :: (frameBits 0x0C01).map .bit

/-- R124: BUS_DESELECT, with its three errors in their order; on success the receiver latches the frame written. -/
def Obligations.BusDeselectClosesTheTransaction : Prop :=
  encode .busDeselect = 0xF3000000 ∧
  (∀ s : State, s.ssn = true →
    exec .busDeselect s = .next { s with
      faulted := true, resp := .deselectNotSelected, seq := 0, cmdst := .idle, work := [] }) ∧
  (∀ s : State, s.ssn = false → s.wr = false →
    exec .busDeselect s = .next { s with
      faulted := true, resp := .deselectEmpty, seq := 0, cmdst := .idle, work := [] }) ∧
  (∀ s : State, s.ssn = false → s.wr = true → (s.bsy = true ∨ s.txe = false) →
    exec .busDeselect s = .next { s with
      faulted := true, resp := .deselectMidShift, seq := 0, cmdst := .idle, work := [] }) ∧
  (∀ s : State, s.linkInv → s.ssn = false → s.wr = true → s.bsy = false → s.txe = true →
    exec .busDeselect s = .next { s with
      ssn := true, wr := false, trace := s.trace ++ [.ssRise], frames := s.frames ++ [.full s.txdr]
      drv := Memory.put s.drv (frameAddr s.txdr).toNat (frameData s.txdr)
      resp := .ok, seq := 0, cmdst := .idle, work := [] }) ∧
  ∃ t, execSeq [.busSelect, .busWrite 0x0C01, .busWait, .busDeselect] State.reset = .next t ∧
    t.frames = [.full 0x0C01] ∧ t.status = 0x00000005

/-- The shifter's three steps (R126 to R128) as they are written there, and at most one of them enabled (R129). -/
def Obligations.ShifterSteps : Prop :=
  (∀ s : State, s.txe = false → s.bsy = false →
    shifterStep s = { s with shr := s.txdr, cnt := 16, txe := true, bsy := true }) ∧
  (∀ s : State, s.ssn = false → s.bsy = true → s.cnt ≠ 0#5 →
    shifterStep s = { s with
      trace := s.trace ++ [.bit (s.shr.getLsbD 15)], rxbits := s.rxbits ++ [s.shr.getLsbD 15]
      shr := s.shr <<< 1, cnt := s.cnt - 1 }) ∧
  (∀ s : State, s.bsy = true → s.cnt = 0#5 → shifterStep s = { s with bsy := false }) ∧
  (∀ s : State, s.bsy = false → s.txe = true → shifterStep s = s) ∧
  ∀ s : State, ¬(s.loadEnabled = true ∧ s.shiftEnabled = true) ∧ ¬(s.loadEnabled = true ∧ s.finishEnabled = true) ∧
    ¬(s.shiftEnabled = true ∧ s.finishEnabled = true)

/-- Sixteen SHIFT steps emit the frame's bits 15, 14, …, 0 in that order, and empty the shift register (R127). -/
def Obligations.SixteenShiftsSendTheFrameMsbFirst : Prop :=
  ∀ s : State, s.ssn = false → s.bsy = true → s.cnt = 16#5 →
    shifterStep^[16] s = { s with
      cnt := 0, shr := 0
      trace := s.trace ++ (List.range 16).map (fun k => .bit (s.shr.getLsbD (15 - k)))
      rxbits := s.rxbits ++ (List.range 16).map (fun k => s.shr.getLsbD (15 - k)) }

/-- A row byte goes out unchanged as the data byte: bit k of it is frame bit k and the (16-k)th on the wire, and the
address byte goes first (20_memory.md R61, R62). -/
def Obligations.FrameAndWireBitOrder : Prop :=
  ∀ a v : Byte,
    (∀ k : Nat, k < 8 → (mkFrame a v).getLsbD k = v.getLsbD k ∧ (mkFrame a v).getLsbD (k + 8) = a.getLsbD k ∧
      (frameBits (mkFrame a v))[15 - k]? = some (v.getLsbD k) ∧
      (frameBits (mkFrame a v))[7 - k]? = some (a.getLsbD k)) ∧
    frameAddr (mkFrame a v) = a ∧ frameData (mkFrame a v) = v

/-- R137: TRANSMIT sends one frame in one whole transaction, and DRV shows it; on a bus that is not idle it is refused
before any effect. -/
def Obligations.TransmitSendsOneFrame : Prop :=
  (∀ f : Frame, encode (.transmit f) = 0x10000000 ||| f.setWidth 32) ∧
  (∀ (s : State) (f : Frame), s.busIdle = true → s.resets = [] →
    ∃ t, exec (.transmit f) s = .next t ∧
      t = { s with
        txdr := f, shr := 0, cnt := 0, rxbits := frameBits f
        trace := s.trace ++ (.ssFall :: (frameBits f).map .bit ++ [.ssRise])
        frames := s.frames ++ [.full f], drv := t.drv
        resp := .ok, seq := 0, cmdst := .idle, work := [] } ∧
      ∀ a : Byte, t.drvAt a = if a = frameAddr f then some (frameData f) else s.drvAt a) ∧
  (∀ (s : State) (f : Frame), s.busIdle = false →
    exec (.transmit f) s = .next { s with
      faulted := true, resp := .busNotIdle, seq := 0, cmdst := .idle, work := [] })

/-- R125: on an idle bus BUS_SELECT; BUS_WRITE f; BUS_WAIT; BUS_DESELECT ends in the very state TRANSMIT f ends in, however
many steps k the shifter has taken between the write and the wait. -/
def Obligations.FourPrimitivesEqualTransmit : Prop :=
  ∀ (s : State) (f : Frame) (k : Nat), s.busIdle = true → s.faulted = false → s.resets = [] →
    ∃ a b c d, exec .busSelect s = .next a ∧ exec (.busWrite f) a = .next b ∧
      exec .busWait (shifterStep^[k] b) = .next c ∧ exec .busDeselect c = .next d ∧ exec (.transmit f) s = .next d ∧
      d.resp = .ok ∧ d.txdr = f ∧ d.shr = 0 ∧ d.cnt = 0

/-- R67: BUS_WAIT ends in the same state whether or not the shifter moved first, and a data word of TRANSLATE_LIST
commutes with a step of the shifter. -/
def Obligations.InterleavingDoesNotMatterToTheWait : Prop :=
  (∀ s : State, s.resets = [] → exec .busWait (shifterStep s) = exec .busWait s) ∧
  ∀ (s t : State) (w : Word), exec (.translateWord w) s = .next t →
    exec (.translateWord w) (shifterStep s) = .next (shifterStep t)

/-- R124's race (95_test_vectors.md P5): from a clean entry, BUS_SELECT; BUS_WRITE f; BUS_DESELECT without a wait has a
run with a good end that latched the frame, and a run that ends with DESELECT_MID_SHIFT and FAULT set. -/
def Obligations.DeselectWithoutWaitHasTwoOutcomes : Prop :=
  ∀ (s : State) (f : Frame), s.cfg.wf = true → s.cleanEntry → s.resets = [] →
    (∃ sched n t, core.run n { s with
        sched := sched
        program := [.write s.cfg.cmdBase 32 0xF0000000, .write s.cfg.cmdBase 32 (0xF1000000 ||| f.setWidth 32),
          .write s.cfg.cmdBase 32 0xF3000000] } = .next t ∧
      State.goodEnd t ∧ State.frames t = s.frames ++ [.full f]) ∧
    ∃ sched n t, core.run n { s with
        sched := sched
        program := [.write s.cfg.cmdBase 32 0xF0000000, .write s.cfg.cmdBase 32 (0xF1000000 ||| f.setWidth 32),
          .write s.cfg.cmdBase 32 0xF3000000] } = .next t ∧
      State.ended t ∧ State.isFaultState t ∧ State.resp t = .deselectMidShift ∧ State.ssn t = false ∧
      State.frames t = s.frames

/-! ## The display-driver register encoder (41_driver_protocol.md) -/

/-- R160 to R165: WRITE_REG and the five configuration commands send one frame each, made of the address and the payload
the rule names, and complete with OK; on a bus that is not idle they end with BUS_NOT_IDLE and nothing else. -/
def Obligations.RegisterWritesSendTheirFrame : Prop :=
  (∀ a v : Byte, encode (.writeReg a v) = 0x20000000 ||| (a.setWidth 32 <<< 8) ||| v.setWidth 32) ∧
  encode .decodeOff = 0x30000000 ∧ (∀ l : BitVec 4, encode (.setIntensity l) = 0x40000000 ||| l.setWidth 32) ∧
  encode .scanLimitAll = 0x50000000 ∧ encode (.setOpmode false) = 0x60000000 ∧ encode (.setOpmode true) = 0x60000001 ∧
  encode (.setDisplayTest false) = 0x70000000 ∧ encode (.setDisplayTest true) = 0x70000001 ∧
  (∀ (s : State) (i : Instr), s.busIdle = false →
    (∃ a v l b c, i ∈ [.writeReg a v, .decodeOff, .setIntensity l, .scanLimitAll, .setOpmode b, .setDisplayTest c]) →
    exec i s = .next { s with faulted := true, resp := .busNotIdle, seq := 0, cmdst := .idle, work := [] }) ∧
  (∀ (s : State) (a v : Byte), exec (.writeReg a v) s = exec (.transmit (a ++ v)) s) ∧
  (∀ (s : State) (a v : Byte), s.busIdle = true → s.resets = [] →
    exec (.writeReg a v) s = .next (completed .ok (sentFrame s (a ++ v)))) ∧
  (∀ s : State, s.busIdle = true → s.resets = [] →
    exec .decodeOff s = .next (completed .ok (sentFrame s (s.cfg.regDecode ++ s.cfg.valDecodeOff))) ∧
    (∀ l : BitVec 4, exec (.setIntensity l) s =
      .next (completed .ok (sentFrame s (s.cfg.regIntensity ++ s.cfg.intensityPayload[l.toNat]'(by omega))))) ∧
    exec .scanLimitAll s = .next (completed .ok (sentFrame s (s.cfg.regScanLimit ++ s.cfg.valScanAll8))) ∧
    exec (.setOpmode true) s = .next (completed .ok (sentFrame s (s.cfg.regShutdown ++ s.cfg.valNormal))) ∧
    exec (.setOpmode false) s = .next (completed .ok (sentFrame s (s.cfg.regShutdown ++ s.cfg.valShutdown))) ∧
    exec (.setDisplayTest true) s = .next (completed .ok (sentFrame s (s.cfg.regDisplayTest ++ s.cfg.valTestOn))) ∧
    exec (.setDisplayTest false) s = .next (completed .ok (sentFrame s (s.cfg.regDisplayTest ++ s.cfg.valTestOff))))

/-- R171: in any state each configuration command, and WRITE_ROW of a row 1..8, has the effect of its WRITE_REG form. -/
def Obligations.ConfigurationCommandsAreRegisterWrites : Prop :=
  ∀ s : State,
    exec .decodeOff s = exec (.writeReg s.cfg.regDecode s.cfg.valDecodeOff) s ∧
    (∀ l : BitVec 4, exec (.setIntensity l) s = exec (.writeReg s.cfg.regIntensity (intensityPayload s.cfg l)) s) ∧
    exec .scanLimitAll s = exec (.writeReg s.cfg.regScanLimit s.cfg.valScanAll8) s ∧
    exec (.setOpmode true) s = exec (.writeReg s.cfg.regShutdown s.cfg.valNormal) s ∧
    exec (.setOpmode false) s = exec (.writeReg s.cfg.regShutdown s.cfg.valShutdown) s ∧
    exec (.setDisplayTest true) s = exec (.writeReg s.cfg.regDisplayTest s.cfg.valTestOn) s ∧
    exec (.setDisplayTest false) s = exec (.writeReg s.cfg.regDisplayTest s.cfg.valTestOff) s ∧
    ∀ (r : BitVec 4) (v : Byte), 1 ≤ r.toNat → r.toNat ≤ 8 →
      exec (.writeRow r v) s = exec (.writeReg (r.setWidth 8) v) s

/-- R166, R167: WRITE_ROW checks the bus, then the row; a row 1..8 sends `zext_8(ROW) ++ VALUE`, any other writes
INVALID_ROW to RESP and changes nothing else of an idle block. -/
def Obligations.WriteRowSendsOneRow : Prop :=
  (∀ (r : BitVec 4) (v : Byte), encode (.writeRow r v) = 0x80000000 ||| (r.setWidth 32 <<< 8) ||| v.setWidth 32) ∧
  (∀ (s : State) (r : BitVec 4) (v : Byte), s.busIdle = false →
    exec (.writeRow r v) s = .next { s with
      faulted := true, resp := .busNotIdle, seq := 0, cmdst := .idle, work := [] }) ∧
  (∀ (s : State) (r : BitVec 4) (v : Byte), s.busIdle = true → (r = 0 ∨ 9 ≤ r.toNat) →
    exec (.writeRow r v) s = .next { s with resp := .invalidRow, seq := 0, cmdst := .idle, work := [] }) ∧
  ∀ (s : State) (r : BitVec 4) (v : Byte), s.busIdle = true → s.resets = [] → 1 ≤ r.toNat → r.toNat ≤ 8 →
    exec (.writeRow r v) s = .next (completed .ok (sentFrame s (r.setWidth 8 ++ v)))

/-- R168: MATRIX_INIT sends the thirteen frames in their order, then sets INITD and responds OK. -/
def Obligations.MatrixInitRunsTheSequence : Prop :=
  encode .matrixInit = 0x90000000 ∧
  (∀ s : State, s.busIdle = false →
    exec .matrixInit s = .next { s with
      faulted := true, resp := .busNotIdle, seq := 0, cmdst := .idle, work := [] }) ∧
  ∀ s : State, s.busIdle = true → s.resets = [] →
    exec .matrixInit s = .next (completed .ok { sentFrames s
      [s.cfg.regDecode ++ s.cfg.valDecodeOff, s.cfg.regIntensity ++ intensityPayload s.cfg s.cfg.initIntensity,
       s.cfg.regScanLimit ++ s.cfg.valScanAll8, s.cfg.regShutdown ++ s.cfg.valNormal,
       s.cfg.regDisplayTest ++ s.cfg.valTestOff, 0x0100, 0x0200, 0x0300, 0x0400, 0x0500, 0x0600, 0x0700, 0x0800]
      with initd := true })

/-- R170: MATRIX_CLEAR writes 0x00 to each row address 1..8 in order, whatever was there; the frame buffer stays. -/
def Obligations.MatrixClearSendsEightZeroRows : Prop :=
  encode .matrixClear = 0xA0000000 ∧
  (∀ s : State, s.busIdle = false →
    exec .matrixClear s = .next { s with
      faulted := true, resp := .busNotIdle, seq := 0, cmdst := .idle, work := [] }) ∧
  ∀ s : State, s.busIdle = true → s.resets = [] →
    ∃ t, exec .matrixClear s = .next t ∧ t = completed .ok (sentFrames s
      [0x0100, 0x0200, 0x0300, 0x0400, 0x0500, 0x0600, 0x0700, 0x0800]) ∧ t.fb = s.fb

/-- Every composite command on a bus that is not idle ends with BUS_NOT_IDLE and FAULT before any effect, whatever its
operands (92_eei_decisions.md D18; 60_exceptions.md R247: the bus comes before the operands). -/
def Obligations.CompositeCommandsNeedAnIdleBus : Prop :=
  ∀ (s : State) (i : Instr), s.busIdle = false →
    (∃ f a v l on r c, i ∈ [.transmit f, .writeReg a v, .decodeOff, .setIntensity l, .scanLimitAll, .setOpmode on,
      .setDisplayTest on, .writeRow r v, .matrixInit, .matrixClear, .renderFull, .renderRow r, .renderCols c]) →
    exec i s = .next { s with faulted := true, resp := .busNotIdle, seq := 0, cmdst := .idle, work := [] }

/-! ## The bitmap (42_bitmap.md) -/

/-- R200: the header, and a data word that is not the last. -/
def Obligations.TranslateListCollectsItsWords : Prop :=
  (∀ s : State, exec (.translateList 0) s = .next { s with resp := .ok, seq := 0, cmdst := .idle, work := [] }) ∧
  (∀ (s : State) (n : Byte), n ≠ 0 →
    exec (.translateList n) s = .next { s with list := ⟨n, []⟩, cmdst := .collect }) ∧
  ∀ (s : State) (w : Word), s.cmdst = .collect → s.list.words.length + 1 ≠ s.list.count.toNat →
    exec (.translateWord w) s = .next { s with list := ⟨s.list.count, s.list.words ++ [w]⟩ }

/-- R201, R202: with its last data word the list executes. A word with a nonzero bit in 31:8 ends it with
ILLEGAL_COMMAND; else a coordinate outside 1..8 ends it with INVALID_COORDINATE; neither changes the frame buffer. Else
exactly the pixels of the list are set, every other bit is as before, and it ends with OK. LIST is left open here (the
model empties it, log 5). -/
def Obligations.TranslateListExecutesWithItsLastWord : Prop :=
  (∀ n : Byte, encode (.translateList n) = 0xB0000000 ||| n.setWidth 32) ∧
  (∀ x y : BitVec 4, encode (.translateWord (encodePair x y)) = (x.setWidth 32 <<< 4) ||| y.setWidth 32) ∧
  (∀ s : State, exec (.translateList 0) s = .next { s with resp := .ok, seq := 0, cmdst := .idle, work := [] }) ∧
  ∀ (s : State) (w : Word), s.cmdst = .collect → s.list.words.length + 1 = s.list.count.toNat →
    ((∃ v ∈ s.list.words ++ [w], v.extractLsb' 8 24 ≠ 0) →
      ∃ t, exec (.translateWord w) s = .next t ∧
        t = { s with resp := .illegalCommand, list := t.list, seq := 0, cmdst := .idle, work := [] }) ∧
    ((∀ v ∈ s.list.words ++ [w], v.extractLsb' 8 24 = 0) →
      (∃ v ∈ s.list.words ++ [w], ¬(1 ≤ (v.extractLsb' 4 4).toNat ∧ (v.extractLsb' 4 4).toNat ≤ 8 ∧
        1 ≤ (v.extractLsb' 0 4).toNat ∧ (v.extractLsb' 0 4).toNat ≤ 8)) →
      ∃ t, exec (.translateWord w) s = .next t ∧
        t = { s with resp := .invalidCoordinate, list := t.list, seq := 0, cmdst := .idle, work := [] }) ∧
    ((∀ v ∈ s.list.words ++ [w], v.extractLsb' 8 24 = 0 ∧ 1 ≤ (v.extractLsb' 4 4).toNat ∧
        (v.extractLsb' 4 4).toNat ≤ 8 ∧ 1 ≤ (v.extractLsb' 0 4).toNat ∧ (v.extractLsb' 0 4).toNat ≤ 8) →
      ∃ t, exec (.translateWord w) s = .next t ∧
        t = { s with fb := t.fb, resp := .ok, list := t.list, seq := 0, cmdst := .idle, work := [] } ∧
        ∀ (r : Row) (k : Nat), k < 8 → ((t.readRow r).getLsbD k = true ↔
          (s.readRow r).getLsbD k = true ∨
          ∃ v ∈ s.list.words ++ [w], (v.extractLsb' 4 4).toNat = k + 1 ∧ (v.extractLsb' 0 4).toNat = rowNumber r))

/-- R203's consequences: two valid lists of the same coordinates give the same rows, whatever their order and repeats; two
lists in a row give what their concatenation gives; no bit is cleared. -/
def Obligations.TranslationIsAUnion : Prop :=
  (∀ (s : State) (ws vs : List Word) (ps qs : List Pixel), pixelsOf ws = some ps → pixelsOf vs = some qs →
    (∀ v ∈ ws ++ vs, badDataWord v = false) → (∀ p, p ∈ ps ↔ p ∈ qs) →
    ∀ r : Row, (translate ws s).readRow r = (translate vs s).readRow r) ∧
  (∀ (s : State) (ws vs : List Word) (ps qs : List Pixel), pixelsOf ws = some ps → pixelsOf vs = some qs →
    (∀ v ∈ ws ++ vs, badDataWord v = false) →
    ∀ r : Row, (translate vs (translate ws s)).readRow r = (translate (ws ++ vs) s).readRow r) ∧
  ∀ (s : State) (ws : List Word) (r : Row), (translate ws s).readRow r &&& s.readRow r = s.readRow r

/-- R205: no command but TRANSLATE_LIST's last data word changes the frame buffer, and that one clears no bit (with no
reset on its way, which would zero it). -/
def Obligations.OnlyTranslateListWritesTheFrameBuffer : Prop :=
  (∀ (s t : State) (i : Instr), s.resets = [] → exec i s = .next t → i.isDataWord = false → t.fb = s.fb) ∧
  (∀ (s t : State) (i : Instr) (r : Row), s.resets = [] → exec i s = .next t →
    t.readRow r &&& s.readRow r = s.readRow r) ∧
  ∀ (s : State) (r : Row), (resetInput s).readRow r = 0x00

/-- R283, R284: a command word written while a list is collected is taken as a coordinate; it has a nonzero bit in 31:8,
so the list then ends with ILLEGAL_COMMAND without the command having run. A data word written while the block is IDLE is
illegal and has no other effect. -/
def Obligations.EarlyCommandIsTakenAsACoordinate : Prop :=
  (∀ (w : Word) (i : Instr), decode w = .ok i → w.extractLsb' 8 24 ≠ 0) ∧
  (∀ (s : State) (w : Word), s.cmdst = .collect → takeWord w s = exec (.translateWord w) s) ∧
  (∀ (s : State) (w : Word), s.cmdst = .collect → s.list.words.length + 1 = s.list.count.toNat →
    (∃ (v : Word) (i : Instr), v ∈ s.list.words ++ [w] ∧ decode v = .ok i) →
    ∃ t, takeWord w s = .next t ∧
      t = { s with resp := .illegalCommand, list := t.list, seq := 0, cmdst := .idle, work := [] }) ∧
  ∀ (s : State) (x y : BitVec 4), s.cmdst = .idle → s.seq = 0 → s.work = [] →
    decode (encodePair x y) = .error .opZero ∧ takeWord (encodePair x y) s = .next { s with resp := .illegalCommand }

/-- A frame-buffer row reads as what was last written to it and every other row as before, in the canonical form, which
the write keeps (20_memory.md R60). -/
def Obligations.FrameBufferReadAfterWrite : Prop :=
  ∀ (s : State) (r r' : Row) (v : Byte), Memory.wf s.fb = true →
    (s.writeRow r v).readRow r' = (if r' = r then v else s.readRow r') ∧ Memory.wf (s.writeRow r v).fb = true

/-- Equal contents are equal data: two frame buffers in canonical form whose eight rows read the same are the same list
(log 12). -/
def Obligations.FrameBufferFormIsCanonical : Prop :=
  ∀ s t : State, Memory.wf s.fb = true → Memory.wf t.fb = true → (∀ r : Row, s.readRow r = t.readRow r) → s.fb = t.fb

/-! ## The row multiplexer (43_render.md) -/

/-- R220: RENDER_FULL sends every row 1..8 in ascending order, one transaction each. -/
def Obligations.RenderFullSendsEveryRow : Prop :=
  encode .renderFull = 0xC0000000 ∧
  (∀ s : State, s.busIdle = false →
    exec .renderFull s = .next { s with
      faulted := true, resp := .busNotIdle, seq := 0, cmdst := .idle, work := [] }) ∧
  ∀ s : State, s.busIdle = true → s.resets = [] →
    exec .renderFull s = .next (completed .ok (sentFrames s
      [0x01#8 ++ s.readRow 0, 0x02#8 ++ s.readRow 1, 0x03#8 ++ s.readRow 2, 0x04#8 ++ s.readRow 3,
       0x05#8 ++ s.readRow 4, 0x06#8 ++ s.readRow 5, 0x07#8 ++ s.readRow 6, 0x08#8 ++ s.readRow 7]))

/-- R222, R223: RENDER_ROW checks the bus, then the row; a row 1..8 sends `zext_8(ROW) ++ FB[ROW]`, any other writes
INVALID_ROW to RESP and changes nothing else of an idle block. -/
def Obligations.RenderRowSendsOneRow : Prop :=
  (∀ r : BitVec 4, encode (.renderRow r) = 0xD0000000 ||| r.setWidth 32) ∧
  (∀ (s : State) (r : BitVec 4), s.busIdle = false →
    exec (.renderRow r) s = .next { s with
      faulted := true, resp := .busNotIdle, seq := 0, cmdst := .idle, work := [] }) ∧
  (∀ (s : State) (r : BitVec 4), s.busIdle = true → (r = 0 ∨ 9 ≤ r.toNat) →
    exec (.renderRow r) s = .next { s with resp := .invalidRow, seq := 0, cmdst := .idle, work := [] }) ∧
  ∀ (s : State) (r : BitVec 4) (row : Row), s.busIdle = true → s.resets = [] → r.toNat = rowNumber row →
    exec (.renderRow r) s = .next (completed .ok (sentFrame s (r.setWidth 8 ++ s.readRow row)))

/-- R224: RENDER_COLS sends every row with the columns above COL masked off a transient copy; every COL is legal. -/
def Obligations.RenderColsMasksTheColumnsAbove : Prop :=
  (∀ c : Byte, encode (.renderCols c) = 0xE0000000 ||| c.setWidth 32) ∧
  (∀ (s : State) (c : Byte), s.busIdle = false →
    exec (.renderCols c) s = .next { s with
      faulted := true, resp := .busNotIdle, seq := 0, cmdst := .idle, work := [] }) ∧
  ∀ (s : State) (c : Byte), s.busIdle = true → s.resets = [] →
    ∃ vs : List Byte, vs.length = 8 ∧
      (∀ (r : Row) (v : Byte), vs[r.val]? = some v → ∀ k : Nat, k < 8 →
        v.getLsbD k = ((s.readRow r).getLsbD k && decide (k < c.toNat))) ∧
      exec (.renderCols c) s = .next (completed .ok (sentFrames s
        ((List.range 8).zipWith (fun n v => BitVec.ofNat 8 (n + 1) ++ v) vs)))

/-- R12's column mask and power-of-two table, bit by bit. -/
def Obligations.ColumnMaskAndBitmask : Prop :=
  (∀ (c : Byte) (k : Nat), k < 8 → (colmask c).getLsbD k = decide (k < c.toNat)) ∧
  ∀ (x : Fin 8) (k : Nat), k < 8 → (bitmask x).getLsbD k = decide (k = x.val)

/-- R225's laws: RENDER_COLS of 8 or more is RENDER_FULL, in any state; RENDER_COLS 0 sends all-zero rows whatever the
buffer holds; RENDER_FULL is the eight RENDER_ROWs in order; the lit bits only grow with COL; no render changes the frame
buffer. -/
def Obligations.RenderLaws : Prop :=
  (∀ (s : State) (c : Byte), 8 ≤ c.toNat → exec (.renderCols c) s = exec .renderFull s) ∧
  (∀ s : State, s.busIdle = true → s.resets = [] →
    exec (.renderCols 0) s = .next (completed .ok (sentFrames s
      [0x0100, 0x0200, 0x0300, 0x0400, 0x0500, 0x0600, 0x0700, 0x0800])) ∧
    execSeq [.renderRow 1, .renderRow 2, .renderRow 3, .renderRow 4, .renderRow 5, .renderRow 6, .renderRow 7,
      .renderRow 8] s = exec .renderFull s) ∧
  (∀ (c d v : Byte), c.toNat ≤ d.toNat → (v &&& colmask c) &&& (v &&& colmask d) = v &&& colmask c) ∧
  ∀ (s t : State) (c : Byte) (r : BitVec 4), s.resets = [] →
    (exec .renderFull s = .next t ∨ exec (.renderRow r) s = .next t ∨ exec (.renderCols c) s = .next t) →
    ∀ row : Row, t.readRow row = s.readRow row

/-! ## Rules about the whole machine -/

/-- No command stops the machine: whatever the state and the operands, `exec` answers a next state (40_transaction.md
R136; 60_exceptions.md R245). -/
def Obligations.NoCommandStops : Prop :=
  ∀ (i : Instr) (s : State), ∃ t, exec i s = .next t

/-- R241, R242, R243: a command that ends with an error has had no other effect. Whatever the command and the state, if it
completes with a code other than OK, then RESP is that code, FAULT is set exactly for the codes 4 to 10 (and kept
otherwise), the command is over, and every other field is as before, but for the LIST that a data word has ended. -/
def Obligations.ErrorsHaveNoOtherEffect : Prop :=
  ∀ (s t : State) (i : Instr), s.resets = [] → exec i s = .next t → t.cmdst = .idle → t.resp ≠ .ok →
    t = { s with
      resp := t.resp, faulted := s.faulted || decide (4 ≤ t.resp.code.toNat)
      seq := 0, cmdst := .idle, work := [], list := t.list } ∧
    (i.isDataWord = false → t.list = s.list)

/-- R242, R249: FAULT stays 1 whatever later commands do, and only a protocol fault sets it. -/
def Obligations.FaultIsSticky : Prop :=
  ∀ (s t : State) (i : Instr), s.resets = [] → exec i s = .next t →
    (s.faulted = true → t.faulted = true) ∧
    (s.faulted = false → t.faulted = true → 4 ≤ t.resp.code.toNat)

/-- R27: INITD is set only by MATRIX_INIT, cleared by nothing but reset, and read by no command: the other commands do the
same whatever it holds, and MATRIX_INIT too. -/
def Obligations.InitdIsWrittenOnlyByMatrixInit : Prop :=
  (∀ (s t : State) (i : Instr), s.resets = [] → exec i s = .next t → i ≠ .matrixInit → t.initd = s.initd) ∧
  (∀ s t : State, s.resets = [] → exec .matrixInit s = .next t → t.initd = (s.initd || s.busIdle)) ∧
  (∀ s : State, (resetInput s).initd = false) ∧
  (∀ (s t : State) (i : Instr) (b : Bool), s.resets = [] → i ≠ .matrixInit → exec i s = .next t →
    exec i { s with initd := b } = .next { t with initd := b }) ∧
  ∀ (s t : State) (b : Bool), s.resets = [] → exec .matrixInit s = .next t →
    exec .matrixInit { s with initd := b } = .next { t with initd := b || s.busIdle }

/-- Nothing the machine does writes the configuration record (00_scope.md R6; 70_reset_and_hazards.md R274). -/
def Obligations.ConfigurationNeverChanges : Prop :=
  ∀ s t : State, step s = .next t → t.cfg = s.cfg

/-- R131: PARTIAL entries come only from a reset: a step with no reset in it adds none to FRAMES. -/
def Obligations.PartialFramesComeOnlyFromReset : Prop :=
  ∀ (s t : State) (n : Nat), s.inv → s.resets = [] → s.program.head? ≠ some .reset → step s = .next t →
    Latched.partialOf n ∈ t.frames → Latched.partialOf n ∈ s.frames

/-- Running a command as one step is running its small steps one by one (log 1): from the state in which the command has
been accepted, some number of machine steps ends in the state `runCommand` gives. -/
def Obligations.CommandIsTheRunOfItsSteps : Prop :=
  ∀ (s : State) (ops : List MicroOp) (c : Resp), s.cfg.wf = true →
    ∃ n, core.run n ({ s with cmdst := .exec, work := ops ++ [.respond c] } : State) =
      .next (runCommand (ops ++ [.respond c]) s)

/-! ## Invariants every step keeps -/

/-- R36 and the agreement of the hidden state with the wire: every step keeps `State.inv`, from every state that has it,
also while a command executes and across a reset. R36's four implications (`State.busInv`) are the spec's. Of the other
clauses, that LIST is empty outside COLLECT (log 5, DEDUCED), what is left of an executing command (log 10) and the
canonical forms of the byte stores (log 12) are the model's own. -/
def Obligations.EveryStepKeepsTheInvariant : Prop :=
  ∀ s t : State, s.inv → step s = .next t → t.inv

/-- The reset state has every invariant. -/
def Obligations.ResetMeetsTheInvariants : Prop :=
  State.reset.inv ∧ State.reset.wireInv ∧ State.reset.receiverInv

/-- R130, 20_memory.md R68: TRACE keeps matching `(SS_FALL BIT^16 SS_RISE)*` with one open transaction at most, through
every step in which no reset comes. -/
def Obligations.EveryStepKeepsTheWireShape : Prop :=
  ∀ s t : State, s.inv → s.wireInv → s.resets = [] → s.program.head? ≠ some .reset → step s = .next t → t.wireInv

/-- R131: RXBITS, FRAMES and DRV stay what a receiver makes of TRACE, through every step (a whole frame is always latched,
log 14; a reset keeps RXBITS, log 11). -/
def Obligations.EveryStepKeepsTheReceiverImage : Prop :=
  ∀ s t : State, s.inv → s.receiverInv → step s = .next t → t.receiverInv

/-- Where nobody can move and no reset is due, an ended run stays as it is (the block waits in IDLE for the next command
word, 70_reset_and_hazards.md R271), and a block that still collects a list is stuck (R287). The stop's name is the
model's (log 9). -/
def Obligations.EndedRunStaysAndCollectingIsStuck : Prop :=
  (∀ s : State, s.cfg.wf = true → s.resets = [] → s.ended → step s = .next s) ∧
  ∀ s : State, s.cfg.wf = true → s.resets = [] → s.stuck → s.shifterEnabled = false →
    step s = .fault .stuckCollecting

/-- 70_reset_and_hazards.md R287: every run of a finite program of admitted accesses reaches an end, or is stuck in COLLECT
after the last host action; no wait hangs, whatever the interleaving and whenever a reset comes. That the shifter moves
where the host cannot is the model's form of R129's fairness (log 2), the name of the stop its own (log 9). -/
def Obligations.EveryRunEndsOrIsStuckCollecting : Prop :=
  ∀ s : State, s.inv → s.cfg.wf = true → (∀ a ∈ s.program, ∀ r, portAccess s.cfg a ≠ .refuse r) →
    ∃ n, (∃ t, core.run n s = .next t ∧ State.ended t) ∨ core.run n s = .fault .stuckCollecting

/-! ## The sequence number -/

/-- What SEQ holds while a composite command executes (41_driver_protocol.md R168, R170; 43_render.md R220 to R224;
40_transaction.md R120, R137): from the step that starts a transaction to its last, SEQ is that transaction's number, 1 to
13 in MATRIX_INIT, 1 to 8 in MATRIX_CLEAR, the row being sent in RENDER_FULL and RENDER_COLS, 1 in RENDER_ROW and 0 in
TRANSMIT; and from its write on TXDR holds its frame. The statement lists are the ones `exec` runs. The small steps, 23 to a
transaction, are the model's (log 1, log 10). RENDER_ROW's 1 is R222's pseudocode, and TRANSMIT's 0 is read from 10_state.md
R21 (SEQ is 0 whenever the block is idle, the clause's premise) and a pseudocode that does not write SEQ: both are the
model's reading (log 21, DEDUCED). -/
def Obligations.SequenceNumberFollowsTheTransactions : Prop :=
  (∀ s : State, s.busIdle = true →
    exec .matrixInit s = .next (runCommand (matrixInitSteps s.cfg ++ [.respond .ok]) s) ∧
    exec .matrixClear s = .next (runCommand (matrixClearSteps ++ [.respond .ok]) s) ∧
    exec .renderFull s = .next (runCommand (sendRows 0xFF ++ [.respond .ok]) s) ∧
    (∀ c : Byte, exec (.renderCols c) s = .next (runCommand (sendRows (colmask c) ++ [.respond .ok]) s)) ∧
    (∀ (r : BitVec 4) (row : Row), r.toNat = rowNumber row →
      exec (.renderRow r) s = .next (runCommand (renderRowSteps row ++ [.respond .ok]) s)) ∧
    ∀ f : Frame, exec (.transmit f) s = .next (runCommand (frameSteps f ++ [.respond .ok]) s)) ∧
  ∀ (s : State) (ops : List MicroOp) (k seq : Nat) (f : Frame) (j : Nat),
    s.cfg.wf = true → s.busIdle = true → s.resets = [] → 1 ≤ j → j ≤ 23 →
    (ops = matrixInitSteps s.cfg ∧ seq = k + 1 ∧
        [s.cfg.regDecode ++ s.cfg.valDecodeOff, s.cfg.regIntensity ++ intensityPayload s.cfg s.cfg.initIntensity,
         s.cfg.regScanLimit ++ s.cfg.valScanAll8, s.cfg.regShutdown ++ s.cfg.valNormal,
         s.cfg.regDisplayTest ++ s.cfg.valTestOff,
         0x0100, 0x0200, 0x0300, 0x0400, 0x0500, 0x0600, 0x0700, 0x0800][k]? = some f ∨
      ops = matrixClearSteps ∧ seq = k + 1 ∧
        [0x0100, 0x0200, 0x0300, 0x0400, 0x0500, 0x0600, 0x0700, 0x0800][k]? = some f ∨
      (∃ (mask : Byte) (row : Row), ops = sendRows mask ∧ k = row.val ∧ seq = rowNumber row ∧
        f = BitVec.ofNat 8 (rowNumber row) ++ (s.readRow row &&& mask)) ∨
      (∃ row : Row, ops = renderRowSteps row ∧ k = 0 ∧ seq = 1 ∧
        f = BitVec.ofNat 8 (rowNumber row) ++ s.readRow row) ∨
      ops = frameSteps f ∧ k = 0 ∧ seq = 0 ∧ s.seq = 0) →
    ∃ t, core.run (23 * k + j) ({ s with cmdst := .exec, work := ops ++ [.respond .ok] } : State) = .next t ∧
      State.cmdst t = .exec ∧ State.seq t = seq ∧ (3 ≤ j → State.txdr t = f)
end

