-- ==== Sys2Proof/Laws/Memory.lean ====
section
/-! SUPPORT. Laws of the byte stores: read after write, and every operation keeps the canonical form. -/

namespace Sys2Proof.Machine

/-- A listed address is not below the bound of a rising store. -/
theorem Memory.lookup_below {lo a : Nat} {m : Memory} (h : Memory.risingFrom lo m = true) (ha : a < lo) :
    Memory.lookup m a = none := by
  induction m generalizing lo with
  | nil => rfl
  | cons c m ih =>
    obtain ⟨k, u⟩ := c
    simp only [risingFrom, Bool.and_eq_true, decide_eq_true_eq] at h
    rw [lookup, if_neg (by omega)]
    exact ih h.2 (by omega)

@[simp] theorem Memory.lookup_put (m : Memory) (a b : Nat) (v : Byte) :
    Memory.lookup (Memory.put m a v) b = if a = b then some v else Memory.lookup m b := by
  induction m with
  | nil => simp [put, lookup]
  | cons c m ih =>
    obtain ⟨k, u⟩ := c
    simp only [put]
    split
    · simp [lookup]
    · split
      · subst_vars; simp only [lookup]; split <;> rfl
      · simp only [lookup, ih]; split <;> split <;> simp_all

theorem Memory.lookup_drop_ne (m : Memory) {a b : Nat} (hab : a ≠ b) :
    Memory.lookup (Memory.drop m a) b = Memory.lookup m b := by
  induction m with
  | nil => rfl
  | cons c m ih =>
    obtain ⟨k, u⟩ := c
    simp only [drop]
    split
    · subst_vars; simp [lookup, hab]
    · simp only [lookup, ih]

theorem Memory.lookup_drop_self {lo : Nat} {m : Memory} (h : Memory.risingFrom lo m = true) (a : Nat) :
    Memory.lookup (Memory.drop m a) a = none := by
  induction m generalizing lo with
  | nil => rfl
  | cons c m ih =>
    obtain ⟨k, u⟩ := c
    simp only [risingFrom, Bool.and_eq_true, decide_eq_true_eq] at h
    simp only [drop]
    split
    · subst_vars; exact lookup_below h.2 (by omega)
    · rw [lookup, if_neg (by omega)]; exact ih h.2

/-- A row reads as what was last written to it, and the other rows read as before. -/
theorem Memory.read_write {m : Memory} (h : Memory.wf m = true) (a b : Nat) (v : Byte) :
    Memory.read (Memory.write m a v) b = if a = b then v else Memory.read m b := by
  simp only [wf, Bool.and_eq_true] at h
  unfold write read
  split
  · next hv =>
    split
    · subst_vars; simp [lookup_drop_self h.1]
    · next hab => rw [lookup_drop_ne _ hab]
  · rw [lookup_put]; split <;> rfl

/-- Writing a nonzero byte needs no canonical form to read back. -/
theorem Memory.read_write_ne_zero (m : Memory) (a b : Nat) {v : Byte} (hv : v ≠ 0x00) :
    Memory.read (Memory.write m a v) b = if a = b then v else Memory.read m b := by
  unfold write read
  rw [if_neg hv, lookup_put]; split <;> rfl

theorem Memory.risingFrom_mono {lo lo' : Nat} {m : Memory} (hle : lo' ≤ lo) (h : Memory.risingFrom lo m = true) :
    Memory.risingFrom lo' m = true := by
  cases m with
  | nil => rfl
  | cons c m =>
    obtain ⟨k, u⟩ := c
    simp only [risingFrom, Bool.and_eq_true, decide_eq_true_eq] at h ⊢
    exact ⟨by omega, h.2⟩

theorem Memory.risingFrom_put {lo a : Nat} {m : Memory} (h : Memory.risingFrom lo m = true) (ha : lo ≤ a) (v : Byte) :
    Memory.risingFrom lo (Memory.put m a v) = true := by
  induction m generalizing lo with
  | nil => simp [put, risingFrom, ha]
  | cons c m ih =>
    obtain ⟨k, u⟩ := c
    simp only [risingFrom, Bool.and_eq_true, decide_eq_true_eq] at h
    simp only [put]
    split
    · simp only [risingFrom, Bool.and_eq_true, decide_eq_true_eq]; exact ⟨ha, by omega, h.2⟩
    · split
      · subst_vars; simp only [risingFrom, Bool.and_eq_true, decide_eq_true_eq]; exact h
      · simp only [risingFrom, Bool.and_eq_true, decide_eq_true_eq]; exact ⟨h.1, ih h.2 (by omega)⟩

theorem Memory.risingFrom_drop {lo : Nat} {m : Memory} (h : Memory.risingFrom lo m = true) (a : Nat) :
    Memory.risingFrom lo (Memory.drop m a) = true := by
  induction m generalizing lo with
  | nil => rfl
  | cons c m ih =>
    obtain ⟨k, u⟩ := c
    simp only [risingFrom, Bool.and_eq_true, decide_eq_true_eq] at h
    simp only [drop]
    split
    · exact risingFrom_mono (by omega) h.2
    · simp only [risingFrom, Bool.and_eq_true, decide_eq_true_eq]; exact ⟨h.1, ih h.2⟩

/-- What holds of every cell and of the new one holds of every cell after `put`. -/
theorem Memory.all_put {p : Host.Cell → Bool} {m : Memory} (h : m.all p = true) {a : Nat} {v : Byte}
    (hp : p (a, v) = true) : (Memory.put m a v).all p = true := by
  induction m with
  | nil => simp [put, hp]
  | cons c m ih =>
    obtain ⟨k, u⟩ := c
    simp only [List.all_cons, Bool.and_eq_true] at h
    simp only [put]
    split
    · simp only [List.all_cons, Bool.and_eq_true]; exact ⟨hp, h⟩
    · split
      · simp only [List.all_cons, Bool.and_eq_true]; exact ⟨hp, h.2⟩
      · simp only [List.all_cons, Bool.and_eq_true]; exact ⟨h.1, ih h.2⟩

theorem Memory.all_drop {p : Host.Cell → Bool} {m : Memory} (h : m.all p = true) (a : Nat) :
    (Memory.drop m a).all p = true := by
  induction m with
  | nil => rfl
  | cons c m ih =>
    obtain ⟨k, u⟩ := c
    simp only [List.all_cons, Bool.and_eq_true] at h
    simp only [drop]
    split
    · exact h.2
    · simp only [List.all_cons, Bool.and_eq_true]; exact ⟨h.1, ih h.2⟩

/-- Writing a row 1..8 keeps the frame buffer's canonical form. -/
theorem Memory.wf_write {m : Memory} (h : Memory.wf m = true) {a : Nat} (ha : 1 ≤ a) (ha' : a ≤ 8) (v : Byte) :
    Memory.wf (Memory.write m a v) = true := by
  simp only [wf, Bool.and_eq_true] at h ⊢
  unfold write
  split
  · exact ⟨risingFrom_drop h.1 a, all_drop h.2 a⟩
  · next hv => exact ⟨risingFrom_put h.1 ha v, all_put h.2 (by simpa [ha'] using hv)⟩

/-- Latching a frame keeps the driver image's canonical form. -/
theorem Memory.drvWf_put {m : Memory} (h : Memory.drvWf m = true) (a : Byte) (v : Byte) :
    Memory.drvWf (Memory.put m a.toNat v) = true := by
  simp only [drvWf, Bool.and_eq_true] at h ⊢
  exact ⟨risingFrom_put h.1 (Nat.zero_le _) v, all_put h.2 (by simpa using a.isLt)⟩

@[simp] theorem Memory.wf_nil : Memory.wf [] = true := rfl

@[simp] theorem Memory.drvWf_nil : Memory.drvWf [] = true := rfl

/-- Setting a pixel's row keeps the frame buffer's canonical form. -/
theorem writeRow_wf {s : State} (h : Memory.wf s.fb = true) (r : Row) (v : Byte) :
    Memory.wf (s.writeRow r v).fb = true :=
  Memory.wf_write h (by simp [rowNumber]) (by have := r.isLt; unfold rowNumber; omega) v

theorem rowNumber_inj {r r' : Row} : rowNumber r = rowNumber r' ↔ r = r' := by
  simp [rowNumber, Fin.ext_iff]

end Sys2Proof.Machine
end

