-- ==== Sys2Proof/Laws/State.lean ====
section
/-! SUPPORT. One lemma per field per update, for the shared operations' record updates. -/

namespace Sys2Proof.Machine

variable (s : State)

/-! ## latchFrame -/

@[simp] theorem latchFrame_fb (f : Frame) : (latchFrame f s).fb = s.fb := rfl
@[simp] theorem latchFrame_ssn (f : Frame) : (latchFrame f s).ssn = s.ssn := rfl
@[simp] theorem latchFrame_txdr (f : Frame) : (latchFrame f s).txdr = s.txdr := rfl
@[simp] theorem latchFrame_txe (f : Frame) : (latchFrame f s).txe = s.txe := rfl
@[simp] theorem latchFrame_bsy (f : Frame) : (latchFrame f s).bsy = s.bsy := rfl
@[simp] theorem latchFrame_shr (f : Frame) : (latchFrame f s).shr = s.shr := rfl
@[simp] theorem latchFrame_cnt (f : Frame) : (latchFrame f s).cnt = s.cnt := rfl
@[simp] theorem latchFrame_wr (f : Frame) : (latchFrame f s).wr = s.wr := rfl
@[simp] theorem latchFrame_initd (f : Frame) : (latchFrame f s).initd = s.initd := rfl
@[simp] theorem latchFrame_faulted (f : Frame) : (latchFrame f s).faulted = s.faulted := rfl
@[simp] theorem latchFrame_resp (f : Frame) : (latchFrame f s).resp = s.resp := rfl
@[simp] theorem latchFrame_cmdst (f : Frame) : (latchFrame f s).cmdst = s.cmdst := rfl
@[simp] theorem latchFrame_seq (f : Frame) : (latchFrame f s).seq = s.seq := rfl
@[simp] theorem latchFrame_list (f : Frame) : (latchFrame f s).list = s.list := rfl
@[simp] theorem latchFrame_work (f : Frame) : (latchFrame f s).work = s.work := rfl
@[simp] theorem latchFrame_trace (f : Frame) : (latchFrame f s).trace = s.trace := rfl
@[simp] theorem latchFrame_rxbits (f : Frame) : (latchFrame f s).rxbits = s.rxbits := rfl
@[simp] theorem latchFrame_frames (f : Frame) : (latchFrame f s).frames = s.frames ++ [.full f] := rfl
@[simp] theorem latchFrame_drv (f : Frame) : (latchFrame f s).drv = Memory.put s.drv (frameAddr f).toNat (frameData f) := rfl
@[simp] theorem latchFrame_cfg (f : Frame) : (latchFrame f s).cfg = s.cfg := rfl
@[simp] theorem latchFrame_program (f : Frame) : (latchFrame f s).program = s.program := rfl
@[simp] theorem latchFrame_reads (f : Frame) : (latchFrame f s).reads = s.reads := rfl
@[simp] theorem latchFrame_resets (f : Frame) : (latchFrame f s).resets = s.resets := rfl
@[simp] theorem latchFrame_sched (f : Frame) : (latchFrame f s).sched = s.sched := rfl
@[simp] theorem latchFrame_draws (f : Frame) : (latchFrame f s).draws = s.draws := rfl

/-! ## latchPartial -/

@[simp] theorem latchPartial_fb (n : Nat) : (latchPartial n s).fb = s.fb := rfl
@[simp] theorem latchPartial_ssn (n : Nat) : (latchPartial n s).ssn = s.ssn := rfl
@[simp] theorem latchPartial_txdr (n : Nat) : (latchPartial n s).txdr = s.txdr := rfl
@[simp] theorem latchPartial_txe (n : Nat) : (latchPartial n s).txe = s.txe := rfl
@[simp] theorem latchPartial_bsy (n : Nat) : (latchPartial n s).bsy = s.bsy := rfl
@[simp] theorem latchPartial_shr (n : Nat) : (latchPartial n s).shr = s.shr := rfl
@[simp] theorem latchPartial_cnt (n : Nat) : (latchPartial n s).cnt = s.cnt := rfl
@[simp] theorem latchPartial_wr (n : Nat) : (latchPartial n s).wr = s.wr := rfl
@[simp] theorem latchPartial_initd (n : Nat) : (latchPartial n s).initd = s.initd := rfl
@[simp] theorem latchPartial_faulted (n : Nat) : (latchPartial n s).faulted = s.faulted := rfl
@[simp] theorem latchPartial_resp (n : Nat) : (latchPartial n s).resp = s.resp := rfl
@[simp] theorem latchPartial_cmdst (n : Nat) : (latchPartial n s).cmdst = s.cmdst := rfl
@[simp] theorem latchPartial_seq (n : Nat) : (latchPartial n s).seq = s.seq := rfl
@[simp] theorem latchPartial_list (n : Nat) : (latchPartial n s).list = s.list := rfl
@[simp] theorem latchPartial_work (n : Nat) : (latchPartial n s).work = s.work := rfl
@[simp] theorem latchPartial_trace (n : Nat) : (latchPartial n s).trace = s.trace := rfl
@[simp] theorem latchPartial_rxbits (n : Nat) : (latchPartial n s).rxbits = s.rxbits := rfl
@[simp] theorem latchPartial_frames (n : Nat) : (latchPartial n s).frames = s.frames ++ [.partialOf n] := rfl
@[simp] theorem latchPartial_drv (n : Nat) : (latchPartial n s).drv = [] := rfl
@[simp] theorem latchPartial_cfg (n : Nat) : (latchPartial n s).cfg = s.cfg := rfl
@[simp] theorem latchPartial_program (n : Nat) : (latchPartial n s).program = s.program := rfl
@[simp] theorem latchPartial_reads (n : Nat) : (latchPartial n s).reads = s.reads := rfl
@[simp] theorem latchPartial_resets (n : Nat) : (latchPartial n s).resets = s.resets := rfl
@[simp] theorem latchPartial_sched (n : Nat) : (latchPartial n s).sched = s.sched := rfl
@[simp] theorem latchPartial_draws (n : Nat) : (latchPartial n s).draws = s.draws := rfl

/-! ## emit -/

@[simp] theorem emit_fb (e : WireEvent) : (emit e s).fb = s.fb := by cases e <;> simp only [emit, receive] <;> (try split) <;> rfl
@[simp] theorem emit_ssn (e : WireEvent) : (emit e s).ssn = s.ssn := by cases e <;> simp only [emit, receive] <;> (try split) <;> rfl
@[simp] theorem emit_txdr (e : WireEvent) : (emit e s).txdr = s.txdr := by cases e <;> simp only [emit, receive] <;> (try split) <;> rfl
@[simp] theorem emit_txe (e : WireEvent) : (emit e s).txe = s.txe := by cases e <;> simp only [emit, receive] <;> (try split) <;> rfl
@[simp] theorem emit_bsy (e : WireEvent) : (emit e s).bsy = s.bsy := by cases e <;> simp only [emit, receive] <;> (try split) <;> rfl
@[simp] theorem emit_shr (e : WireEvent) : (emit e s).shr = s.shr := by cases e <;> simp only [emit, receive] <;> (try split) <;> rfl
@[simp] theorem emit_cnt (e : WireEvent) : (emit e s).cnt = s.cnt := by cases e <;> simp only [emit, receive] <;> (try split) <;> rfl
@[simp] theorem emit_wr (e : WireEvent) : (emit e s).wr = s.wr := by cases e <;> simp only [emit, receive] <;> (try split) <;> rfl
@[simp] theorem emit_initd (e : WireEvent) : (emit e s).initd = s.initd := by cases e <;> simp only [emit, receive] <;> (try split) <;> rfl
@[simp] theorem emit_faulted (e : WireEvent) : (emit e s).faulted = s.faulted := by cases e <;> simp only [emit, receive] <;> (try split) <;> rfl
@[simp] theorem emit_resp (e : WireEvent) : (emit e s).resp = s.resp := by cases e <;> simp only [emit, receive] <;> (try split) <;> rfl
@[simp] theorem emit_cmdst (e : WireEvent) : (emit e s).cmdst = s.cmdst := by cases e <;> simp only [emit, receive] <;> (try split) <;> rfl
@[simp] theorem emit_seq (e : WireEvent) : (emit e s).seq = s.seq := by cases e <;> simp only [emit, receive] <;> (try split) <;> rfl
@[simp] theorem emit_list (e : WireEvent) : (emit e s).list = s.list := by cases e <;> simp only [emit, receive] <;> (try split) <;> rfl
@[simp] theorem emit_work (e : WireEvent) : (emit e s).work = s.work := by cases e <;> simp only [emit, receive] <;> (try split) <;> rfl
@[simp] theorem emit_trace (e : WireEvent) : (emit e s).trace = s.trace ++ [e] := by cases e <;> simp only [emit, receive] <;> (try split) <;> rfl
@[simp] theorem emit_cfg (e : WireEvent) : (emit e s).cfg = s.cfg := by cases e <;> simp only [emit, receive] <;> (try split) <;> rfl
@[simp] theorem emit_program (e : WireEvent) : (emit e s).program = s.program := by cases e <;> simp only [emit, receive] <;> (try split) <;> rfl
@[simp] theorem emit_reads (e : WireEvent) : (emit e s).reads = s.reads := by cases e <;> simp only [emit, receive] <;> (try split) <;> rfl
@[simp] theorem emit_resets (e : WireEvent) : (emit e s).resets = s.resets := by cases e <;> simp only [emit, receive] <;> (try split) <;> rfl
@[simp] theorem emit_sched (e : WireEvent) : (emit e s).sched = s.sched := by cases e <;> simp only [emit, receive] <;> (try split) <;> rfl
@[simp] theorem emit_draws (e : WireEvent) : (emit e s).draws = s.draws := by cases e <;> simp only [emit, receive] <;> (try split) <;> rfl

/-! ## selectLine -/

@[simp] theorem selectLine_fb : (selectLine s).fb = s.fb := rfl
@[simp] theorem selectLine_ssn : (selectLine s).ssn = false := rfl
@[simp] theorem selectLine_txdr : (selectLine s).txdr = s.txdr := rfl
@[simp] theorem selectLine_txe : (selectLine s).txe = s.txe := rfl
@[simp] theorem selectLine_bsy : (selectLine s).bsy = s.bsy := rfl
@[simp] theorem selectLine_shr : (selectLine s).shr = s.shr := rfl
@[simp] theorem selectLine_cnt : (selectLine s).cnt = s.cnt := rfl
@[simp] theorem selectLine_wr : (selectLine s).wr = s.wr := rfl
@[simp] theorem selectLine_initd : (selectLine s).initd = s.initd := rfl
@[simp] theorem selectLine_faulted : (selectLine s).faulted = s.faulted := rfl
@[simp] theorem selectLine_resp : (selectLine s).resp = s.resp := rfl
@[simp] theorem selectLine_cmdst : (selectLine s).cmdst = s.cmdst := rfl
@[simp] theorem selectLine_seq : (selectLine s).seq = s.seq := rfl
@[simp] theorem selectLine_list : (selectLine s).list = s.list := rfl
@[simp] theorem selectLine_work : (selectLine s).work = s.work := rfl
@[simp] theorem selectLine_trace : (selectLine s).trace = s.trace ++ [.ssFall] := rfl
@[simp] theorem selectLine_rxbits : (selectLine s).rxbits = [] := rfl
@[simp] theorem selectLine_frames : (selectLine s).frames = s.frames := rfl
@[simp] theorem selectLine_drv : (selectLine s).drv = s.drv := rfl
@[simp] theorem selectLine_cfg : (selectLine s).cfg = s.cfg := rfl
@[simp] theorem selectLine_program : (selectLine s).program = s.program := rfl
@[simp] theorem selectLine_reads : (selectLine s).reads = s.reads := rfl
@[simp] theorem selectLine_resets : (selectLine s).resets = s.resets := rfl
@[simp] theorem selectLine_sched : (selectLine s).sched = s.sched := rfl
@[simp] theorem selectLine_draws : (selectLine s).draws = s.draws := rfl

/-! ## writeTxdr -/

@[simp] theorem writeTxdr_fb (f : Frame) : (writeTxdr f s).fb = s.fb := rfl
@[simp] theorem writeTxdr_ssn (f : Frame) : (writeTxdr f s).ssn = s.ssn := rfl
@[simp] theorem writeTxdr_txdr (f : Frame) : (writeTxdr f s).txdr = f := rfl
@[simp] theorem writeTxdr_txe (f : Frame) : (writeTxdr f s).txe = false := rfl
@[simp] theorem writeTxdr_bsy (f : Frame) : (writeTxdr f s).bsy = s.bsy := rfl
@[simp] theorem writeTxdr_shr (f : Frame) : (writeTxdr f s).shr = s.shr := rfl
@[simp] theorem writeTxdr_cnt (f : Frame) : (writeTxdr f s).cnt = s.cnt := rfl
@[simp] theorem writeTxdr_wr (f : Frame) : (writeTxdr f s).wr = true := rfl
@[simp] theorem writeTxdr_initd (f : Frame) : (writeTxdr f s).initd = s.initd := rfl
@[simp] theorem writeTxdr_faulted (f : Frame) : (writeTxdr f s).faulted = s.faulted := rfl
@[simp] theorem writeTxdr_resp (f : Frame) : (writeTxdr f s).resp = s.resp := rfl
@[simp] theorem writeTxdr_cmdst (f : Frame) : (writeTxdr f s).cmdst = s.cmdst := rfl
@[simp] theorem writeTxdr_seq (f : Frame) : (writeTxdr f s).seq = s.seq := rfl
@[simp] theorem writeTxdr_list (f : Frame) : (writeTxdr f s).list = s.list := rfl
@[simp] theorem writeTxdr_work (f : Frame) : (writeTxdr f s).work = s.work := rfl
@[simp] theorem writeTxdr_trace (f : Frame) : (writeTxdr f s).trace = s.trace := rfl
@[simp] theorem writeTxdr_rxbits (f : Frame) : (writeTxdr f s).rxbits = s.rxbits := rfl
@[simp] theorem writeTxdr_frames (f : Frame) : (writeTxdr f s).frames = s.frames := rfl
@[simp] theorem writeTxdr_drv (f : Frame) : (writeTxdr f s).drv = s.drv := rfl
@[simp] theorem writeTxdr_cfg (f : Frame) : (writeTxdr f s).cfg = s.cfg := rfl
@[simp] theorem writeTxdr_program (f : Frame) : (writeTxdr f s).program = s.program := rfl
@[simp] theorem writeTxdr_reads (f : Frame) : (writeTxdr f s).reads = s.reads := rfl
@[simp] theorem writeTxdr_resets (f : Frame) : (writeTxdr f s).resets = s.resets := rfl
@[simp] theorem writeTxdr_sched (f : Frame) : (writeTxdr f s).sched = s.sched := rfl
@[simp] theorem writeTxdr_draws (f : Frame) : (writeTxdr f s).draws = s.draws := rfl

/-! ## deselectLine -/

@[simp] theorem deselectLine_fb : (deselectLine s).fb = s.fb := by first | rfl | (simp only [deselectLine, emit, receive]; split <;> rfl)
@[simp] theorem deselectLine_ssn : (deselectLine s).ssn = true := by first | rfl | (simp only [deselectLine, emit, receive]; split <;> rfl)
@[simp] theorem deselectLine_txdr : (deselectLine s).txdr = s.txdr := by first | rfl | (simp only [deselectLine, emit, receive]; split <;> rfl)
@[simp] theorem deselectLine_txe : (deselectLine s).txe = s.txe := by first | rfl | (simp only [deselectLine, emit, receive]; split <;> rfl)
@[simp] theorem deselectLine_bsy : (deselectLine s).bsy = s.bsy := by first | rfl | (simp only [deselectLine, emit, receive]; split <;> rfl)
@[simp] theorem deselectLine_shr : (deselectLine s).shr = s.shr := by first | rfl | (simp only [deselectLine, emit, receive]; split <;> rfl)
@[simp] theorem deselectLine_cnt : (deselectLine s).cnt = s.cnt := by first | rfl | (simp only [deselectLine, emit, receive]; split <;> rfl)
@[simp] theorem deselectLine_wr : (deselectLine s).wr = false := by first | rfl | (simp only [deselectLine, emit, receive]; split <;> rfl)
@[simp] theorem deselectLine_initd : (deselectLine s).initd = s.initd := by first | rfl | (simp only [deselectLine, emit, receive]; split <;> rfl)
@[simp] theorem deselectLine_faulted : (deselectLine s).faulted = s.faulted := by first | rfl | (simp only [deselectLine, emit, receive]; split <;> rfl)
@[simp] theorem deselectLine_resp : (deselectLine s).resp = s.resp := by first | rfl | (simp only [deselectLine, emit, receive]; split <;> rfl)
@[simp] theorem deselectLine_cmdst : (deselectLine s).cmdst = s.cmdst := by first | rfl | (simp only [deselectLine, emit, receive]; split <;> rfl)
@[simp] theorem deselectLine_seq : (deselectLine s).seq = s.seq := by first | rfl | (simp only [deselectLine, emit, receive]; split <;> rfl)
@[simp] theorem deselectLine_list : (deselectLine s).list = s.list := by first | rfl | (simp only [deselectLine, emit, receive]; split <;> rfl)
@[simp] theorem deselectLine_work : (deselectLine s).work = s.work := by first | rfl | (simp only [deselectLine, emit, receive]; split <;> rfl)
@[simp] theorem deselectLine_trace : (deselectLine s).trace = s.trace ++ [.ssRise] := by first | rfl | (simp only [deselectLine, emit, receive]; split <;> rfl)
@[simp] theorem deselectLine_rxbits : (deselectLine s).rxbits = s.rxbits := by first | rfl | (simp only [deselectLine, emit, receive]; split <;> rfl)
@[simp] theorem deselectLine_cfg : (deselectLine s).cfg = s.cfg := by first | rfl | (simp only [deselectLine, emit, receive]; split <;> rfl)
@[simp] theorem deselectLine_program : (deselectLine s).program = s.program := by first | rfl | (simp only [deselectLine, emit, receive]; split <;> rfl)
@[simp] theorem deselectLine_reads : (deselectLine s).reads = s.reads := by first | rfl | (simp only [deselectLine, emit, receive]; split <;> rfl)
@[simp] theorem deselectLine_resets : (deselectLine s).resets = s.resets := by first | rfl | (simp only [deselectLine, emit, receive]; split <;> rfl)
@[simp] theorem deselectLine_sched : (deselectLine s).sched = s.sched := by first | rfl | (simp only [deselectLine, emit, receive]; split <;> rfl)
@[simp] theorem deselectLine_draws : (deselectLine s).draws = s.draws := by first | rfl | (simp only [deselectLine, emit, receive]; split <;> rfl)

/-! ## load -/

@[simp] theorem load_fb : (load s).fb = s.fb := rfl
@[simp] theorem load_ssn : (load s).ssn = s.ssn := rfl
@[simp] theorem load_txdr : (load s).txdr = s.txdr := rfl
@[simp] theorem load_txe : (load s).txe = true := rfl
@[simp] theorem load_bsy : (load s).bsy = true := rfl
@[simp] theorem load_shr : (load s).shr = s.txdr := rfl
@[simp] theorem load_cnt : (load s).cnt = 16 := rfl
@[simp] theorem load_wr : (load s).wr = s.wr := rfl
@[simp] theorem load_initd : (load s).initd = s.initd := rfl
@[simp] theorem load_faulted : (load s).faulted = s.faulted := rfl
@[simp] theorem load_resp : (load s).resp = s.resp := rfl
@[simp] theorem load_cmdst : (load s).cmdst = s.cmdst := rfl
@[simp] theorem load_seq : (load s).seq = s.seq := rfl
@[simp] theorem load_list : (load s).list = s.list := rfl
@[simp] theorem load_work : (load s).work = s.work := rfl
@[simp] theorem load_trace : (load s).trace = s.trace := rfl
@[simp] theorem load_rxbits : (load s).rxbits = s.rxbits := rfl
@[simp] theorem load_frames : (load s).frames = s.frames := rfl
@[simp] theorem load_drv : (load s).drv = s.drv := rfl
@[simp] theorem load_cfg : (load s).cfg = s.cfg := rfl
@[simp] theorem load_program : (load s).program = s.program := rfl
@[simp] theorem load_reads : (load s).reads = s.reads := rfl
@[simp] theorem load_resets : (load s).resets = s.resets := rfl
@[simp] theorem load_sched : (load s).sched = s.sched := rfl
@[simp] theorem load_draws : (load s).draws = s.draws := rfl

/-! ## shiftBit -/

@[simp] theorem shiftBit_fb : (shiftBit s).fb = s.fb := by first | rfl | (simp only [shiftBit, emit, receive]; split <;> rfl)
@[simp] theorem shiftBit_ssn : (shiftBit s).ssn = s.ssn := by first | rfl | (simp only [shiftBit, emit, receive]; split <;> rfl)
@[simp] theorem shiftBit_txdr : (shiftBit s).txdr = s.txdr := by first | rfl | (simp only [shiftBit, emit, receive]; split <;> rfl)
@[simp] theorem shiftBit_txe : (shiftBit s).txe = s.txe := by first | rfl | (simp only [shiftBit, emit, receive]; split <;> rfl)
@[simp] theorem shiftBit_bsy : (shiftBit s).bsy = s.bsy := by first | rfl | (simp only [shiftBit, emit, receive]; split <;> rfl)
@[simp] theorem shiftBit_shr : (shiftBit s).shr = s.shr <<< 1 := rfl
@[simp] theorem shiftBit_cnt : (shiftBit s).cnt = s.cnt - 1 := rfl
@[simp] theorem shiftBit_wr : (shiftBit s).wr = s.wr := by first | rfl | (simp only [shiftBit, emit, receive]; split <;> rfl)
@[simp] theorem shiftBit_initd : (shiftBit s).initd = s.initd := by first | rfl | (simp only [shiftBit, emit, receive]; split <;> rfl)
@[simp] theorem shiftBit_faulted : (shiftBit s).faulted = s.faulted := by first | rfl | (simp only [shiftBit, emit, receive]; split <;> rfl)
@[simp] theorem shiftBit_resp : (shiftBit s).resp = s.resp := by first | rfl | (simp only [shiftBit, emit, receive]; split <;> rfl)
@[simp] theorem shiftBit_cmdst : (shiftBit s).cmdst = s.cmdst := by first | rfl | (simp only [shiftBit, emit, receive]; split <;> rfl)
@[simp] theorem shiftBit_seq : (shiftBit s).seq = s.seq := by first | rfl | (simp only [shiftBit, emit, receive]; split <;> rfl)
@[simp] theorem shiftBit_list : (shiftBit s).list = s.list := by first | rfl | (simp only [shiftBit, emit, receive]; split <;> rfl)
@[simp] theorem shiftBit_work : (shiftBit s).work = s.work := by first | rfl | (simp only [shiftBit, emit, receive]; split <;> rfl)
@[simp] theorem shiftBit_trace : (shiftBit s).trace = s.trace ++ [.bit (s.shr.getLsbD 15)] := by first | rfl | (simp only [shiftBit, emit, receive]; split <;> rfl)
@[simp] theorem shiftBit_frames : (shiftBit s).frames = s.frames := by first | rfl | (simp only [shiftBit, emit, receive]; split <;> rfl)
@[simp] theorem shiftBit_drv : (shiftBit s).drv = s.drv := by first | rfl | (simp only [shiftBit, emit, receive]; split <;> rfl)
@[simp] theorem shiftBit_cfg : (shiftBit s).cfg = s.cfg := by first | rfl | (simp only [shiftBit, emit, receive]; split <;> rfl)
@[simp] theorem shiftBit_program : (shiftBit s).program = s.program := by first | rfl | (simp only [shiftBit, emit, receive]; split <;> rfl)
@[simp] theorem shiftBit_reads : (shiftBit s).reads = s.reads := by first | rfl | (simp only [shiftBit, emit, receive]; split <;> rfl)
@[simp] theorem shiftBit_resets : (shiftBit s).resets = s.resets := by first | rfl | (simp only [shiftBit, emit, receive]; split <;> rfl)
@[simp] theorem shiftBit_sched : (shiftBit s).sched = s.sched := by first | rfl | (simp only [shiftBit, emit, receive]; split <;> rfl)
@[simp] theorem shiftBit_draws : (shiftBit s).draws = s.draws := by first | rfl | (simp only [shiftBit, emit, receive]; split <;> rfl)

/-! ## finish -/

@[simp] theorem finish_fb : (finish s).fb = s.fb := rfl
@[simp] theorem finish_ssn : (finish s).ssn = s.ssn := rfl
@[simp] theorem finish_txdr : (finish s).txdr = s.txdr := rfl
@[simp] theorem finish_txe : (finish s).txe = s.txe := rfl
@[simp] theorem finish_bsy : (finish s).bsy = false := rfl
@[simp] theorem finish_shr : (finish s).shr = s.shr := rfl
@[simp] theorem finish_cnt : (finish s).cnt = s.cnt := rfl
@[simp] theorem finish_wr : (finish s).wr = s.wr := rfl
@[simp] theorem finish_initd : (finish s).initd = s.initd := rfl
@[simp] theorem finish_faulted : (finish s).faulted = s.faulted := rfl
@[simp] theorem finish_resp : (finish s).resp = s.resp := rfl
@[simp] theorem finish_cmdst : (finish s).cmdst = s.cmdst := rfl
@[simp] theorem finish_seq : (finish s).seq = s.seq := rfl
@[simp] theorem finish_list : (finish s).list = s.list := rfl
@[simp] theorem finish_work : (finish s).work = s.work := rfl
@[simp] theorem finish_trace : (finish s).trace = s.trace := rfl
@[simp] theorem finish_rxbits : (finish s).rxbits = s.rxbits := rfl
@[simp] theorem finish_frames : (finish s).frames = s.frames := rfl
@[simp] theorem finish_drv : (finish s).drv = s.drv := rfl
@[simp] theorem finish_cfg : (finish s).cfg = s.cfg := rfl
@[simp] theorem finish_program : (finish s).program = s.program := rfl
@[simp] theorem finish_reads : (finish s).reads = s.reads := rfl
@[simp] theorem finish_resets : (finish s).resets = s.resets := rfl
@[simp] theorem finish_sched : (finish s).sched = s.sched := rfl
@[simp] theorem finish_draws : (finish s).draws = s.draws := rfl

/-! ## respond -/

@[simp] theorem respond_fb (c : Resp) : (respond c s).fb = s.fb := rfl
@[simp] theorem respond_ssn (c : Resp) : (respond c s).ssn = s.ssn := rfl
@[simp] theorem respond_txdr (c : Resp) : (respond c s).txdr = s.txdr := rfl
@[simp] theorem respond_txe (c : Resp) : (respond c s).txe = s.txe := rfl
@[simp] theorem respond_bsy (c : Resp) : (respond c s).bsy = s.bsy := rfl
@[simp] theorem respond_shr (c : Resp) : (respond c s).shr = s.shr := rfl
@[simp] theorem respond_cnt (c : Resp) : (respond c s).cnt = s.cnt := rfl
@[simp] theorem respond_wr (c : Resp) : (respond c s).wr = s.wr := rfl
@[simp] theorem respond_initd (c : Resp) : (respond c s).initd = s.initd := rfl
@[simp] theorem respond_faulted (c : Resp) : (respond c s).faulted = s.faulted := rfl
@[simp] theorem respond_resp (c : Resp) : (respond c s).resp = c := rfl
@[simp] theorem respond_cmdst (c : Resp) : (respond c s).cmdst = .idle := rfl
@[simp] theorem respond_seq (c : Resp) : (respond c s).seq = 0 := rfl
@[simp] theorem respond_list (c : Resp) : (respond c s).list = s.list := rfl
@[simp] theorem respond_work (c : Resp) : (respond c s).work = [] := rfl
@[simp] theorem respond_trace (c : Resp) : (respond c s).trace = s.trace := rfl
@[simp] theorem respond_rxbits (c : Resp) : (respond c s).rxbits = s.rxbits := rfl
@[simp] theorem respond_frames (c : Resp) : (respond c s).frames = s.frames := rfl
@[simp] theorem respond_drv (c : Resp) : (respond c s).drv = s.drv := rfl
@[simp] theorem respond_cfg (c : Resp) : (respond c s).cfg = s.cfg := rfl
@[simp] theorem respond_program (c : Resp) : (respond c s).program = s.program := rfl
@[simp] theorem respond_reads (c : Resp) : (respond c s).reads = s.reads := rfl
@[simp] theorem respond_resets (c : Resp) : (respond c s).resets = s.resets := rfl
@[simp] theorem respond_sched (c : Resp) : (respond c s).sched = s.sched := rfl
@[simp] theorem respond_draws (c : Resp) : (respond c s).draws = s.draws := rfl

/-! ## raise -/

@[simp] theorem raise_fb (c : Resp) : (raise c s).fb = s.fb := rfl
@[simp] theorem raise_ssn (c : Resp) : (raise c s).ssn = s.ssn := rfl
@[simp] theorem raise_txdr (c : Resp) : (raise c s).txdr = s.txdr := rfl
@[simp] theorem raise_txe (c : Resp) : (raise c s).txe = s.txe := rfl
@[simp] theorem raise_bsy (c : Resp) : (raise c s).bsy = s.bsy := rfl
@[simp] theorem raise_shr (c : Resp) : (raise c s).shr = s.shr := rfl
@[simp] theorem raise_cnt (c : Resp) : (raise c s).cnt = s.cnt := rfl
@[simp] theorem raise_wr (c : Resp) : (raise c s).wr = s.wr := rfl
@[simp] theorem raise_initd (c : Resp) : (raise c s).initd = s.initd := rfl
@[simp] theorem raise_faulted (c : Resp) : (raise c s).faulted = (s.faulted || c.isProtocolFault) := rfl
@[simp] theorem raise_resp (c : Resp) : (raise c s).resp = c := rfl
@[simp] theorem raise_cmdst (c : Resp) : (raise c s).cmdst = .idle := rfl
@[simp] theorem raise_seq (c : Resp) : (raise c s).seq = 0 := rfl
@[simp] theorem raise_list (c : Resp) : (raise c s).list = s.list := rfl
@[simp] theorem raise_work (c : Resp) : (raise c s).work = [] := rfl
@[simp] theorem raise_trace (c : Resp) : (raise c s).trace = s.trace := rfl
@[simp] theorem raise_rxbits (c : Resp) : (raise c s).rxbits = s.rxbits := rfl
@[simp] theorem raise_frames (c : Resp) : (raise c s).frames = s.frames := rfl
@[simp] theorem raise_drv (c : Resp) : (raise c s).drv = s.drv := rfl
@[simp] theorem raise_cfg (c : Resp) : (raise c s).cfg = s.cfg := rfl
@[simp] theorem raise_program (c : Resp) : (raise c s).program = s.program := rfl
@[simp] theorem raise_reads (c : Resp) : (raise c s).reads = s.reads := rfl
@[simp] theorem raise_resets (c : Resp) : (raise c s).resets = s.resets := rfl
@[simp] theorem raise_sched (c : Resp) : (raise c s).sched = s.sched := rfl
@[simp] theorem raise_draws (c : Resp) : (raise c s).draws = s.draws := rfl

/-! ## clearBlock -/

@[simp] theorem clearBlock_fb : (clearBlock s).fb = [] := rfl
@[simp] theorem clearBlock_ssn : (clearBlock s).ssn = true := rfl
@[simp] theorem clearBlock_txdr : (clearBlock s).txdr = 0 := rfl
@[simp] theorem clearBlock_txe : (clearBlock s).txe = true := rfl
@[simp] theorem clearBlock_bsy : (clearBlock s).bsy = false := rfl
@[simp] theorem clearBlock_shr : (clearBlock s).shr = 0 := rfl
@[simp] theorem clearBlock_cnt : (clearBlock s).cnt = 0 := rfl
@[simp] theorem clearBlock_wr : (clearBlock s).wr = false := rfl
@[simp] theorem clearBlock_initd : (clearBlock s).initd = false := rfl
@[simp] theorem clearBlock_faulted : (clearBlock s).faulted = false := rfl
@[simp] theorem clearBlock_resp : (clearBlock s).resp = .ok := rfl
@[simp] theorem clearBlock_cmdst : (clearBlock s).cmdst = .idle := rfl
@[simp] theorem clearBlock_seq : (clearBlock s).seq = 0 := rfl
@[simp] theorem clearBlock_list : (clearBlock s).list = .empty := rfl
@[simp] theorem clearBlock_work : (clearBlock s).work = [] := rfl
@[simp] theorem clearBlock_trace : (clearBlock s).trace = s.trace := rfl
@[simp] theorem clearBlock_rxbits : (clearBlock s).rxbits = s.rxbits := rfl
@[simp] theorem clearBlock_frames : (clearBlock s).frames = s.frames := rfl
@[simp] theorem clearBlock_drv : (clearBlock s).drv = s.drv := rfl
@[simp] theorem clearBlock_cfg : (clearBlock s).cfg = s.cfg := rfl
@[simp] theorem clearBlock_program : (clearBlock s).program = s.program := rfl
@[simp] theorem clearBlock_reads : (clearBlock s).reads = s.reads := rfl
@[simp] theorem clearBlock_resets : (clearBlock s).resets = s.resets := rfl
@[simp] theorem clearBlock_sched : (clearBlock s).sched = s.sched := rfl
@[simp] theorem clearBlock_draws : (clearBlock s).draws = s.draws := rfl

/-! ## tick -/

@[simp] theorem tick_fb : (tick s).fb = s.fb := rfl
@[simp] theorem tick_ssn : (tick s).ssn = s.ssn := rfl
@[simp] theorem tick_txdr : (tick s).txdr = s.txdr := rfl
@[simp] theorem tick_txe : (tick s).txe = s.txe := rfl
@[simp] theorem tick_bsy : (tick s).bsy = s.bsy := rfl
@[simp] theorem tick_shr : (tick s).shr = s.shr := rfl
@[simp] theorem tick_cnt : (tick s).cnt = s.cnt := rfl
@[simp] theorem tick_wr : (tick s).wr = s.wr := rfl
@[simp] theorem tick_initd : (tick s).initd = s.initd := rfl
@[simp] theorem tick_faulted : (tick s).faulted = s.faulted := rfl
@[simp] theorem tick_resp : (tick s).resp = s.resp := rfl
@[simp] theorem tick_cmdst : (tick s).cmdst = s.cmdst := rfl
@[simp] theorem tick_seq : (tick s).seq = s.seq := rfl
@[simp] theorem tick_list : (tick s).list = s.list := rfl
@[simp] theorem tick_work : (tick s).work = s.work := rfl
@[simp] theorem tick_trace : (tick s).trace = s.trace := rfl
@[simp] theorem tick_rxbits : (tick s).rxbits = s.rxbits := rfl
@[simp] theorem tick_frames : (tick s).frames = s.frames := rfl
@[simp] theorem tick_drv : (tick s).drv = s.drv := rfl
@[simp] theorem tick_cfg : (tick s).cfg = s.cfg := rfl
@[simp] theorem tick_program : (tick s).program = s.program := rfl
@[simp] theorem tick_reads : (tick s).reads = s.reads := rfl
@[simp] theorem tick_resets : (tick s).resets = nearer s.resets := rfl
@[simp] theorem tick_sched : (tick s).sched = s.sched := rfl
@[simp] theorem tick_draws : (tick s).draws = s.draws := rfl

/-! ## readStatus -/

@[simp] theorem readStatus_fb : (readStatus s).fb = s.fb := rfl
@[simp] theorem readStatus_ssn : (readStatus s).ssn = s.ssn := rfl
@[simp] theorem readStatus_txdr : (readStatus s).txdr = s.txdr := rfl
@[simp] theorem readStatus_txe : (readStatus s).txe = s.txe := rfl
@[simp] theorem readStatus_bsy : (readStatus s).bsy = s.bsy := rfl
@[simp] theorem readStatus_shr : (readStatus s).shr = s.shr := rfl
@[simp] theorem readStatus_cnt : (readStatus s).cnt = s.cnt := rfl
@[simp] theorem readStatus_wr : (readStatus s).wr = s.wr := rfl
@[simp] theorem readStatus_initd : (readStatus s).initd = s.initd := rfl
@[simp] theorem readStatus_faulted : (readStatus s).faulted = s.faulted := rfl
@[simp] theorem readStatus_resp : (readStatus s).resp = s.resp := rfl
@[simp] theorem readStatus_cmdst : (readStatus s).cmdst = s.cmdst := rfl
@[simp] theorem readStatus_seq : (readStatus s).seq = s.seq := rfl
@[simp] theorem readStatus_list : (readStatus s).list = s.list := rfl
@[simp] theorem readStatus_work : (readStatus s).work = s.work := rfl
@[simp] theorem readStatus_trace : (readStatus s).trace = s.trace := rfl
@[simp] theorem readStatus_rxbits : (readStatus s).rxbits = s.rxbits := rfl
@[simp] theorem readStatus_frames : (readStatus s).frames = s.frames := rfl
@[simp] theorem readStatus_drv : (readStatus s).drv = s.drv := rfl
@[simp] theorem readStatus_cfg : (readStatus s).cfg = s.cfg := rfl
@[simp] theorem readStatus_program : (readStatus s).program = s.program := rfl
@[simp] theorem readStatus_reads : (readStatus s).reads = s.reads ++ [s.status] := rfl
@[simp] theorem readStatus_resets : (readStatus s).resets = s.resets := rfl
@[simp] theorem readStatus_sched : (readStatus s).sched = s.sched := rfl
@[simp] theorem readStatus_draws : (readStatus s).draws = s.draws := rfl

/-! ## State.writeRow -/

@[simp] theorem writeRow_fb (r : Row) (v : Byte) : (s.writeRow r v).fb = Memory.write s.fb (rowNumber r) v := rfl
@[simp] theorem writeRow_ssn (r : Row) (v : Byte) : (s.writeRow r v).ssn = s.ssn := rfl
@[simp] theorem writeRow_txdr (r : Row) (v : Byte) : (s.writeRow r v).txdr = s.txdr := rfl
@[simp] theorem writeRow_txe (r : Row) (v : Byte) : (s.writeRow r v).txe = s.txe := rfl
@[simp] theorem writeRow_bsy (r : Row) (v : Byte) : (s.writeRow r v).bsy = s.bsy := rfl
@[simp] theorem writeRow_shr (r : Row) (v : Byte) : (s.writeRow r v).shr = s.shr := rfl
@[simp] theorem writeRow_cnt (r : Row) (v : Byte) : (s.writeRow r v).cnt = s.cnt := rfl
@[simp] theorem writeRow_wr (r : Row) (v : Byte) : (s.writeRow r v).wr = s.wr := rfl
@[simp] theorem writeRow_initd (r : Row) (v : Byte) : (s.writeRow r v).initd = s.initd := rfl
@[simp] theorem writeRow_faulted (r : Row) (v : Byte) : (s.writeRow r v).faulted = s.faulted := rfl
@[simp] theorem writeRow_resp (r : Row) (v : Byte) : (s.writeRow r v).resp = s.resp := rfl
@[simp] theorem writeRow_cmdst (r : Row) (v : Byte) : (s.writeRow r v).cmdst = s.cmdst := rfl
@[simp] theorem writeRow_seq (r : Row) (v : Byte) : (s.writeRow r v).seq = s.seq := rfl
@[simp] theorem writeRow_list (r : Row) (v : Byte) : (s.writeRow r v).list = s.list := rfl
@[simp] theorem writeRow_work (r : Row) (v : Byte) : (s.writeRow r v).work = s.work := rfl
@[simp] theorem writeRow_trace (r : Row) (v : Byte) : (s.writeRow r v).trace = s.trace := rfl
@[simp] theorem writeRow_rxbits (r : Row) (v : Byte) : (s.writeRow r v).rxbits = s.rxbits := rfl
@[simp] theorem writeRow_frames (r : Row) (v : Byte) : (s.writeRow r v).frames = s.frames := rfl
@[simp] theorem writeRow_drv (r : Row) (v : Byte) : (s.writeRow r v).drv = s.drv := rfl
@[simp] theorem writeRow_cfg (r : Row) (v : Byte) : (s.writeRow r v).cfg = s.cfg := rfl
@[simp] theorem writeRow_program (r : Row) (v : Byte) : (s.writeRow r v).program = s.program := rfl
@[simp] theorem writeRow_reads (r : Row) (v : Byte) : (s.writeRow r v).reads = s.reads := rfl
@[simp] theorem writeRow_resets (r : Row) (v : Byte) : (s.writeRow r v).resets = s.resets := rfl
@[simp] theorem writeRow_sched (r : Row) (v : Byte) : (s.writeRow r v).sched = s.sched := rfl
@[simp] theorem writeRow_draws (r : Row) (v : Byte) : (s.writeRow r v).draws = s.draws := rfl

/-! ## emit, the receiver's fields -/

@[simp] theorem deselectLine_frames :
    (deselectLine s).frames = s.frames ++
      [if s.rxbits.length = 16 then .full (frameOfBits s.rxbits) else .partialOf s.rxbits.length] := by
  simp only [deselectLine, emit, receive]; split <;> simp_all [latchFrame, latchPartial]

@[simp] theorem deselectLine_drv :
    (deselectLine s).drv = if s.rxbits.length = 16 then
      Memory.put s.drv (frameAddr (frameOfBits s.rxbits)).toNat (frameData (frameOfBits s.rxbits)) else [] := by
  simp only [deselectLine, emit, receive]; split <;> rfl

@[simp] theorem shiftBit_rxbits :
    (shiftBit s).rxbits = if s.ssn then s.rxbits else s.rxbits ++ [s.shr.getLsbD 15] := by
  simp only [shiftBit, emit, receive]; split <;> rfl

/-! ## The resets to come -/

@[simp] theorem nearer_nil : nearer [] = [] := rfl

@[simp] theorem nearer_cons (n : Nat) (ns : List Nat) : nearer (n :: ns) = (n - 1) :: ns := rfl

@[simp] theorem nearer_eq_nil {ns : List Nat} : nearer ns = [] ↔ ns = [] := by cases ns <;> simp

end Sys2Proof.Machine
end

