-- ==== Sys2Proof/Laws/Engine.lean ====
section
/-! SUPPORT. The engine of an executing command: what it does to the receiver, one whole transaction, the completion wait, and the commands built from them. -/

namespace Sys2Proof.Machine

/-! ## Frames and bits -/

/-- The receiver reads the bits of a frame back as the frame. -/
theorem frameOfBits_frameBits (f : Frame) : frameOfBits (frameBits f) = f := by
  apply BitVec.eq_of_getLsbD_eq
  intro i hi
  interval_cases i <;> simp [frameOfBits, frameBits]

theorem frameBits_length (f : Frame) : (frameBits f).length = 16 := rfl

/-- Sixteen shifts empty the shift register. -/
theorem shiftLeft_sixteen (f : Frame) : f <<< 16 = 0#16 := by
  apply BitVec.eq_of_getLsbD_eq; intro i hi; simp [hi]

/-! ## drain -/

theorem tick_of_noReset {s : State} (h : s.resets = []) : tick s = s := by
  cases s; simp_all [tick]

theorem advance_of_noReset {s : State} (h : s.resets = []) : advance s = microStep s := by
  simp [advance, h, tick_of_noReset h]

theorem drain_not_exec {s : State} (h : s.cmdst ≠ .exec) (n : Nat) : drain n s = s := by
  cases n with
  | zero => rfl
  | succ n => rw [drain, if_neg h]

theorem drain_succ {s : State} (hr : s.resets = []) (he : s.cmdst = .exec) (n : Nat) :
    drain (n + 1) s = drain n (microStep s) := by
  rw [drain, if_pos he, advance_of_noReset hr]

theorem drain_add (m n : Nat) (s : State) : drain (m + n) s = drain n (drain m s) := by
  induction m generalizing s with
  | zero => simp [drain]
  | succ m ih =>
    rw [Nat.succ_add, drain]
    split
    · next h => rw [ih, drain, if_pos h]
    · next h => rw [drain, if_neg h, drain_not_exec h]

/-- A state in which the host is held and no reset is on its way. -/
structure Running (s : State) : Prop where
  exec : s.cmdst = .exec
  noReset : s.resets = []

/-- On an idle bus the next four steps open a transaction and load its frame. -/
theorem drain_open {s : State} (h : Running s) (hidle : s.busIdle = true) {seq : Nat} {src : FrameSource}
    {rest : List MicroOp} (hw : s.work = .start seq src :: rest) :
    drain 4 s = { s with
      ssn := false, txdr := sourceFrame s src, txe := true, bsy := true, wr := true, shr := sourceFrame s src, cnt := 16
      seq := seq, work := .wait :: .deselect :: rest, trace := s.trace ++ [.ssFall], rxbits := [] } := by
  obtain ⟨he, hr⟩ := h
  generalize hf : sourceFrame s src = f
  obtain ⟨fb, ssn, txdr, txe, bsy, shr, cnt, wr, initd, faulted, resp, cmdst, sq, list, work, trace, rxbits, frames, drv,
    cfg, program, reads, resets, sched, draws⟩ := s
  simp only [State.busIdle, Bool.and_eq_true, Bool.not_eq_true'] at hidle
  obtain ⟨⟨⟨rfl, rfl⟩, rfl⟩, rfl⟩ := hidle
  subst he hr hw hf
  rfl

/-- The next sixteen steps shift the frame out, bit 15 first (40_transaction.md R127). -/
theorem drain_shift {s : State} (h : Running s) (hssn : s.ssn = false) (htxe : s.txe = true) (hbsy : s.bsy = true)
    (hcnt : s.cnt = 16) :
    drain 16 s = { s with
      cnt := 0, shr := 0, rxbits := s.rxbits ++ frameBits s.shr, trace := s.trace ++ (frameBits s.shr).map .bit } := by
  obtain ⟨he, hr⟩ := h
  obtain ⟨fb, ssn, txdr, txe, bsy, shr, cnt, wr, initd, faulted, resp, cmdst, sq, list, work, trace, rxbits, frames, drv,
    cfg, program, reads, resets, sched, draws⟩ := s
  subst he hr hssn htxe hbsy hcnt
  simp [drain, advance, tick, microStep, State.shifterEnabled, State.loadEnabled, State.shiftEnabled,
    State.finishEnabled, shifterStep, shiftBit, emit, receive, frameBits]

/-- The last three steps finish the shift, lift the hold and close the transaction. -/
theorem drain_close {s : State} (h : Running s) (hbsy : s.bsy = true) (htxe : s.txe = true) (hcnt : s.cnt = 0)
    {rest : List MicroOp} (hw : s.work = .wait :: .deselect :: rest) {f : Frame} (hbits : s.rxbits = frameBits f) :
    drain 3 s = { s with
      bsy := false, ssn := true, wr := false, work := rest, trace := s.trace ++ [.ssRise]
      frames := s.frames ++ [.full f], drv := Memory.put s.drv (frameAddr f).toNat (frameData f) } := by
  obtain ⟨he, hr⟩ := h
  obtain ⟨fb, ssn, txdr, txe, bsy, shr, cnt, wr, initd, faulted, resp, cmdst, sq, list, work, trace, rxbits, frames, drv,
    cfg, program, reads, resets, sched, draws⟩ := s
  subst he hr hbsy htxe hcnt hw hbits
  simp [drain, advance, tick, microStep, State.shifterEnabled, State.loadEnabled, State.shiftEnabled,
    State.finishEnabled, shifterStep, finish, blockStep, State.shiftDone, deselectLine, emit, receive, latchFrame,
    frameBits_length, frameOfBits_frameBits]

/-- One whole transaction takes 23 steps and leaves `sentFrame` (40_transaction.md R120). -/
theorem drain_txn {s : State} (h : Running s) (hidle : s.busIdle = true) {seq : Nat} {src : FrameSource}
    {rest : List MicroOp} (hw : s.work = .start seq src :: rest) :
    drain 23 s = { sentFrame s (sourceFrame s src) with seq := seq, work := rest } := by
  have hb : s.ssn = true ∧ s.wr = false ∧ s.bsy = false ∧ s.txe = true := by
    simpa [State.busIdle, and_assoc] using hidle
  rw [show (23 : Nat) = 4 + (16 + 3) from rfl, drain_add, drain_add, drain_open h hidle hw, drain_shift,
    drain_close (f := sourceFrame s src) (rest := rest)]
  · obtain ⟨fb, ssn, txdr, txe, bsy, shr, cnt, wr, initd, faulted, resp, cmdst, sq, list, work, trace, rxbits, frames,
      drv, cfg, program, reads, resets, sched, draws⟩ := s
    obtain ⟨rfl, rfl, rfl, rfl⟩ := hb
    simp [sentFrame, txnEvents]
  all_goals first | rfl | exact ⟨h.exec, h.noReset⟩

/-! ## Composite commands -/

@[simp] theorem sentFrame_busIdle (s : State) (f : Frame) : (sentFrame s f).busIdle = s.busIdle := rfl

@[simp] theorem sentFrame_readRow (s : State) (f : Frame) (r : Row) : (sentFrame s f).readRow r = s.readRow r := rfl

/-- Sending a frame does not change what a later transaction of the command will send (43_render.md R221). -/
theorem sourceFrame_of_fb {s t : State} (h : t.fb = s.fb) (src : FrameSource) : sourceFrame t src = sourceFrame s src := by
  cases src <;> simp [sourceFrame, State.readRow, h]

/-- One `txn` per entry: its SEQ value and where its frame comes from. -/
def txnOps (items : List (Nat × FrameSource)) : List MicroOp := items.map fun p => .start p.1 p.2

/-- The frames those transactions send. -/
def txnFrames (s : State) (items : List (Nat × FrameSource)) : List Frame := items.map fun p => sourceFrame s p.2

theorem txnFrames_of_fb {s t : State} (h : t.fb = s.fb) (items : List (Nat × FrameSource)) :
    txnFrames t items = txnFrames s items := by
  simp [txnFrames, sourceFrame_of_fb h]

/-- Whole transactions in a row, each of 23 steps, send their frames in order (20_memory.md R66, R68). -/
theorem drain_txns (items : List (Nat × FrameSource)) {s : State} (h : Running s) (hidle : s.busIdle = true)
    {rest : List MicroOp} (hw : s.work = txnOps items ++ rest) :
    ∃ q, drain (23 * items.length) s = { sentFrames s (txnFrames s items) with seq := q, work := rest } := by
  induction items generalizing s with
  | nil => exact ⟨s.seq, by cases s; simp_all [drain, sentFrames, txnFrames, txnOps]⟩
  | cons p items ih =>
    have hw' : s.work = .start p.1 p.2 :: (txnOps items ++ rest) := by simpa [txnOps] using hw
    rw [List.length_cons, Nat.mul_succ, Nat.add_comm, drain_add, drain_txn h hidle hw']
    obtain ⟨q, hq⟩ := ih (s := { sentFrame s (sourceFrame s p.2) with seq := p.1, work := txnOps items ++ rest })
      ⟨h.exec, h.noReset⟩ hidle rfl
    refine ⟨q, hq.trans ?_⟩
    rw [txnFrames_of_fb (s := s) rfl]
    have hseq : ∀ (fs : List Frame) (u : State) (n : Nat) (w : List MicroOp),
        sentFrames { u with seq := n, work := w } fs = { sentFrames u fs with seq := n, work := w } := by
      intro fs
      induction fs with
      | nil => intros; rfl
      | cons f fs ih => intro u n w; exact ih (sentFrame u f) n w
    rw [hseq]
    rfl

theorem sentFrames_keeps (s : State) (fs : List Frame) :
    (sentFrames s fs).cmdst = s.cmdst ∧ (sentFrames s fs).resets = s.resets ∧
      (sentFrames s fs).busIdle = s.busIdle := by
  induction fs generalizing s with
  | nil => exact ⟨rfl, rfl, rfl⟩
  | cons f fs ih => exact ih (sentFrame s f)

/-- `u` is `s` but for the command's own bookkeeping: CMDST, SEQ and what is left of it. -/
def SameButCommand (u s : State) : Prop := ∀ c, completed c u = completed c s

theorem SameButCommand.sentFrames {u s : State} (h : SameButCommand u s) (fs : List Frame) :
    SameButCommand (sentFrames u fs) (sentFrames s fs) := by
  induction fs generalizing u s with
  | nil => exact h
  | cons f fs ih =>
    refine ih fun c => ?_
    have := congrArg (fun v => completed c (sentFrame v f)) (h c)
    exact this

/-- The step of the block on an idle bus is the next statement of the command. -/
theorem microStep_idle {s : State} (hidle : s.busIdle = true) : microStep s = blockStep s := by
  simp only [State.busIdle, Bool.and_eq_true, Bool.not_eq_true'] at hidle
  simp [microStep, State.shifterEnabled, State.loadEnabled, State.shiftEnabled, State.finishEnabled, hidle]

theorem drain_respond {s : State} (h : Running s) (hidle : s.busIdle = true) {c : Resp} (hw : s.work = [.respond c])
    (n : Nat) : drain (n + 1) s = completed c s := by
  have hb : blockStep s = completed c s := by rw [blockStep, hw]; rfl
  rw [drain_succ h.noReset h.exec, microStep_idle hidle, hb, drain_not_exec (by simp [completed])]

theorem drain_setInit {s : State} (h : Running s) (hidle : s.busIdle = true) {c : Resp}
    (hw : s.work = [.setInit, .respond c]) (n : Nat) :
    drain (n + 2) s = completed c { s with initd := true } := by
  have hb : blockStep s = { s with initd := true, work := [.respond c] } := by rw [blockStep, hw]
  rw [drain_succ h.noReset h.exec, microStep_idle hidle, hb]
  exact drain_respond (s := { s with initd := true, work := [.respond c] }) ⟨h.exec, h.noReset⟩ hidle rfl n

/-- A composite command's transactions, run from its acceptance: what is reached before the statements of `rest`. -/
theorem run_txns (items : List (Nat × FrameSource)) (rest : List MicroOp) {s : State} (hidle : s.busIdle = true)
    (hr : s.resets = []) :
    ∃ u, drain (23 * items.length) { s with cmdst := .exec, work := txnOps items ++ rest } = u ∧ Running u ∧
      u.busIdle = true ∧ u.work = rest ∧ SameButCommand u (sentFrames s (txnFrames s items)) := by
  obtain ⟨q, hq⟩ := drain_txns items (s := { s with cmdst := .exec, work := txnOps items ++ rest }) ⟨rfl, hr⟩ hidle rfl
  have hk := sentFrames_keeps { s with cmdst := .exec, work := txnOps items ++ rest } (txnFrames s items)
  have hs : SameButCommand { s with cmdst := .exec, work := txnOps items ++ rest } s := fun _ => rfl
  exact ⟨_, hq, ⟨hk.1, hk.2.1.trans hr⟩, hk.2.2.trans hidle, rfl, fun c => hs.sentFrames _ c⟩

/-- What a composite command does on an idle bus with no reset on its way: its frames in order, then OK. -/
theorem composite_sends (items : List (Nat × FrameSource)) {s : State} (hidle : s.busIdle = true)
    (hr : s.resets = []) :
    composite (txnOps items) s = completed .ok (sentFrames s (txnFrames s items)) := by
  have hlen : drainBound (txnOps items ++ [.respond .ok]) = 23 * items.length + (items.length + 83 + 1) := by
    simp [drainBound, txnOps]; omega
  obtain ⟨u, hu, hrun, hi, hw, hsame⟩ := run_txns items [.respond .ok] hidle hr
  rw [composite, if_pos hidle, runCommand, hlen, drain_add, hu, drain_respond hrun hi hw, hsame]

/-- The same with INITD set before the response (41_driver_protocol.md R168). -/
theorem composite_sends_init (items : List (Nat × FrameSource)) {s : State} (hidle : s.busIdle = true)
    (hr : s.resets = []) :
    composite (txnOps items ++ [.setInit]) s =
      completed .ok { sentFrames s (txnFrames s items) with initd := true } := by
  have hlen : drainBound (txnOps items ++ [.setInit, .respond .ok]) = 23 * items.length + (items.length + 106 + 2) := by
    simp [drainBound, txnOps]; omega
  obtain ⟨u, hu, hrun, hi, hw, hsame⟩ := run_txns items [.setInit, .respond .ok] hidle hr
  rw [composite, if_pos hidle, runCommand, List.append_assoc, List.singleton_append, hlen, drain_add, hu,
    drain_setInit hrun hi hw]
  exact congrArg (fun v : State => { v with initd := true }) (hsame .ok)

theorem composite_not_idle (ops : List MicroOp) {s : State} (h : s.busIdle = false) :
    composite ops s = raise .busNotIdle s := by simp [composite, h]

theorem sendFrame_sends (f : Frame) {s : State} (hidle : s.busIdle = true) (hr : s.resets = []) :
    sendFrame f s = completed .ok (sentFrame s f) :=
  composite_sends [(0, .const f)] hidle hr

end Sys2Proof.Machine
end

