-- ==== Sys2Proof/Laws/Shifter.lean ====
section
/-! SUPPORT. The shifter: what one of its steps does, the invariants it keeps, and where it ends if left to run. -/

namespace Sys2Proof.Machine

/-! ## Frame bits by position -/

theorem frameBits_getElem (f : Frame) (k : Nat) (hk : k < 16) :
    (frameBits f)[k]'(by simpa [frameBits_length] using hk) = f.getLsbD (15 - k) := by
  interval_cases k <;> rfl

theorem frameBits_take_succ (f : Frame) {k : Nat} (hk : k < 16) :
    (frameBits f).take (k + 1) = (frameBits f).take k ++ [f.getLsbD (15 - k)] := by
  rw [List.take_succ_eq_append_getElem (by simpa [frameBits_length] using hk), frameBits_getElem f k hk]

theorem frameBits_drop (f : Frame) {k : Nat} (hk : k < 16) :
    (frameBits f).drop k = f.getLsbD (15 - k) :: (frameBits f).drop (k + 1) := by
  rw [List.drop_eq_getElem_cons (by simpa [frameBits_length] using hk), frameBits_getElem f k hk]

theorem shifted_top (f : Frame) {k : Nat} (hk : k < 16) : (f <<< k).getLsbD 15 = f.getLsbD (15 - k) := by
  interval_cases k <;> simp

/-! ## One step (40_transaction.md R126 to R129) -/

/-- Everything a step of the shifter can be; at most one case applies. -/
theorem shifterStep_cases (s : State) :
    (s.txe = false ∧ s.bsy = false ∧ shifterStep s = load s) ∨
    (s.bsy = true ∧ s.cnt ≠ 0#5 ∧ shifterStep s = shiftBit s) ∨
    (s.bsy = true ∧ s.cnt = 0#5 ∧ shifterStep s = finish s) ∨
    (s.bsy = false ∧ s.txe = true ∧ shifterStep s = s) := by
  unfold shifterStep State.loadEnabled State.shiftEnabled State.finishEnabled
  cases hb : s.bsy <;> cases ht : s.txe <;> by_cases hc : s.cnt = 0#5 <;> simp [hc]

theorem shifterEnabled_eq (s : State) : s.shifterEnabled = !s.shiftDone := by
  unfold State.shifterEnabled State.loadEnabled State.shiftEnabled State.finishEnabled State.shiftDone
  cases hb : s.bsy <;> cases ht : s.txe <;> by_cases hc : s.cnt = 0#5 <;> simp [hc]

/-- SHIFT where slave-select is low, as one record update. -/
theorem shiftBit_low {s : State} (h : s.ssn = false) :
    shiftBit s = { s with
      shr := s.shr <<< 1, cnt := s.cnt - 1, trace := s.trace ++ [.bit (s.shr.getLsbD 15)]
      rxbits := s.rxbits ++ [s.shr.getLsbD 15] } := by
  simp [shiftBit, emit, receive, h]

theorem cnt_sub_one {c : BitVec 5} (h : c ≠ 0#5) : (c - 1).toNat = c.toNat - 1 := by
  have : c.toNat ≠ 0 := fun h' => h (BitVec.eq_of_toNat_eq h')
  have := c.isLt
  rw [show (c - 1).toNat = (2 ^ 5 - 1 + c.toNat) % 2 ^ 5 from BitVec.toNat_sub c 1]
  omega

/-- SHIFT sends one more bit of the open transaction's frame. -/
theorem sentBits_shift {s : State} (hb : s.busInv) (hbsy : s.bsy = true) (hc : s.cnt ≠ 0#5) :
    (shiftBit s).sentBits = s.sentBits + 1 ∧ s.sentBits < 16 := by
  obtain ⟨-, -, h3, -⟩ := hb
  obtain ⟨-, hwr, -, hle⟩ := h3 hbsy
  have hne : s.cnt.toNat ≠ 0 := fun h' => hc (BitVec.eq_of_toNat_eq h')
  simp only [State.sentBits, shiftBit_wr, shiftBit_bsy, shiftBit_cnt, hwr, hbsy, if_true, cnt_sub_one hc]
  omega

theorem shifterStep_busInv {s : State} (h : s.busInv) : (shifterStep s).busInv := by
  obtain ⟨h1, h2, h3, h4⟩ := h
  obtain ⟨ht, hb, he⟩ | ⟨hb, hc, he⟩ | ⟨hb, hc, he⟩ | ⟨-, -, he⟩ := shifterStep_cases s <;> rw [he]
  · obtain ⟨hwr, -, hs⟩ := h2 ht
    simp [State.busInv, hwr, hs]
  · obtain ⟨ht, hwr, hs, hle⟩ := h3 hb
    simp only [State.busInv, shiftBit_ssn, shiftBit_wr, shiftBit_bsy, shiftBit_txe, shiftBit_cnt, hs, ht, hb, hwr,
      cnt_sub_one hc]
    simp; omega
  · obtain ⟨ht, hwr, hs, hle⟩ := h3 hb
    simp [State.busInv, hs, ht, hwr, hc]
  · exact ⟨h1, h2, h3, h4⟩

theorem shifterStep_linkInv {s : State} (hbus : s.busInv) (h : s.linkInv) : (shifterStep s).linkInv := by
  obtain ⟨h1, h2, h3⟩ := h
  have hbus' := hbus
  obtain ⟨-, hb2, hb3, -⟩ := hbus
  obtain ⟨ht, hb, he⟩ | ⟨hb, hc, he⟩ | ⟨hb, hc, he⟩ | ⟨-, -, he⟩ := shifterStep_cases s <;> rw [he]
  · obtain ⟨hwr, -, hs⟩ := hb2 ht
    have := h1 hs
    simp_all [State.linkInv, State.sentBits]
  · obtain ⟨ht, hwr, hs, hle⟩ := hb3 hb
    obtain ⟨hk, hlt⟩ := sentBits_shift hbus' hb hc
    refine ⟨fun _ => ?_, fun _ => ?_, fun h' => ?_⟩
    · rw [hk, shiftBit_txdr, shiftBit_rxbits, hs, frameBits_take_succ _ hlt, h1 hs, h2 hb, shifted_top _ hlt]
      rfl
    · rw [hk, shiftBit_txdr, shiftBit_shr, h2 hb, BitVec.shiftLeft_add]
    · simp [hb] at h'
  · obtain ⟨ht, hwr, hs, hle⟩ := hb3 hb
    have h16 : s.sentBits = 16 := by simp [State.sentBits, hwr, hb, hc]
    have h16' : (finish s).sentBits = 16 := by simp [State.sentBits, hwr, ht]
    refine ⟨fun _ => ?_, fun h' => ?_, fun _ => ?_⟩
    · rw [h16', finish_rxbits, finish_txdr, h1 hs, h16]
    · simp at h'
    · rw [finish_shr, h2 hb, h16, shiftLeft_sixteen]
  · exact ⟨h1, h2, h3⟩

/-! ## Left to run (40_transaction.md R128, R129) -/

/-- How many steps the shifter still has. -/
def shifterLeft (s : State) : Nat := (if s.bsy then s.cnt.toNat + 1 else 0) + if s.txe then 0 else 18

theorem shifterLeft_step {s : State} (h : s.shifterEnabled = true) : shifterLeft s = shifterLeft (shifterStep s) + 1 := by
  rw [shifterEnabled_eq] at h
  obtain ⟨ht, hb, he⟩ | ⟨hb, hc, he⟩ | ⟨hb, hc, he⟩ | ⟨hb, ht, he⟩ := shifterStep_cases s <;> rw [he]
  · simp [shifterLeft, ht, hb]
  · have hne : s.cnt.toNat ≠ 0 := fun h' => hc (BitVec.eq_of_toNat_eq h')
    simp only [shifterLeft, shiftBit_bsy, shiftBit_txe, shiftBit_cnt, hb, if_true, cnt_sub_one hc]
    omega
  · cases ht : s.txe <;> simp [shifterLeft, hb, hc, ht]
  · simp [State.shiftDone, hb, ht] at h

theorem settled_step {s : State} (hbus : s.busInv) (hlink : s.linkInv) : settled (shifterStep s) = settled s := by
  obtain ⟨h1, h2, h3⟩ := hlink
  have hbus' := hbus
  obtain ⟨-, hb2, hb3, -⟩ := hbus
  obtain ⟨ht, hb, he⟩ | ⟨hb, hc, he⟩ | ⟨hb, hc, he⟩ | ⟨-, -, he⟩ := shifterStep_cases s <;> rw [he]
  · obtain ⟨hwr, -, hs⟩ := hb2 ht
    simp [settled, State.shiftDone, ht, hb, load, State.sentBits, hwr]
  · obtain ⟨ht, hwr, hs, hle⟩ := hb3 hb
    obtain ⟨hk, hlt⟩ := sentBits_shift hbus' hb hc
    have e1 : (shiftBit s).shiftDone = false := by simp [State.shiftDone, hb]
    have e2 : s.shiftDone = false := by simp [State.shiftDone, hb]
    unfold settled
    rw [e1, e2, if_neg (by simp), if_neg (by simp), hk, shiftBit_low hs]
    simp only [frameBits_drop _ hlt, h2 hb, shifted_top _ hlt, List.map_cons, List.append_assoc, List.singleton_append]
  · obtain ⟨ht, hwr, hs, hle⟩ := hb3 hb
    have h16 : s.sentBits = 16 := by simp [State.sentBits, hwr, hb, hc]
    have e1 : (finish s).shiftDone = true := by simp [State.shiftDone, ht]
    have e2 : s.shiftDone = false := by simp [State.shiftDone, hb]
    unfold settled
    rw [e1, e2, if_pos rfl, if_neg (by simp), h16, List.drop_eq_nil_of_le (by simp [frameBits_length]), List.map_nil,
      List.append_nil]
    have hr := h1 hs
    have hsh := h2 hb
    rw [h16, List.take_of_length_le (by simp [frameBits_length])] at hr
    rw [h16, shiftLeft_sixteen] at hsh
    obtain ⟨fb, ssn, txdr, txe, bsy, shr, cnt, wr, initd, faulted, resp, cmdst, sq, list, work, trace, rxbits, frames,
      drv, cfg, program, reads, resets, sched, draws⟩ := s
    dsimp only at hr hsh hc ht
    subst hr hsh hc ht
    rfl

/-- The state after `n` steps of the shifter, as far as it has them. -/
def shifterRun : Nat → State → State
  | 0, s => s
  | n + 1, s => shifterRun n (shifterStep s)

/-- The shifter's steps leave the command, the plan and the reset input alone. -/
theorem shifterStep_keeps (s : State) :
    (shifterStep s).cmdst = s.cmdst ∧ (shifterStep s).resets = s.resets ∧ (shifterStep s).work = s.work := by
  obtain ⟨-, -, he⟩ | ⟨-, -, he⟩ | ⟨-, -, he⟩ | ⟨-, -, he⟩ := shifterStep_cases s <;> rw [he] <;> simp

theorem shiftDone_of_shifterLeft {s : State} (h : shifterLeft s = 0) : s.shiftDone = true := by
  rcases hd : s.shiftDone with _ | _
  · have := shifterLeft_step (s := s) (by rw [shifterEnabled_eq, hd]; rfl)
    omega
  · rfl

theorem shifterEnabled_of_shifterLeft {s : State} {m : Nat} (h : shifterLeft s = m + 1) : s.shifterEnabled = true := by
  rw [shifterEnabled_eq]
  cases hb : s.bsy <;> cases ht : s.txe <;> simp_all [shifterLeft, State.shiftDone]

theorem shifterLeft_le (s : State) : shifterLeft s ≤ 50 := by
  have := s.cnt.isLt
  unfold shifterLeft
  split <;> split <;> omega

/-- The completion wait lets the shifter run to its end and is then over (40_transaction.md R123), in every state. -/
theorem drain_wait {s : State} (h : Running s) {rest : List MicroOp} (hw : s.work = .wait :: rest) (n : Nat) :
    drain (n + 1 + shifterLeft s) s = drain n { shifterRun (shifterLeft s) s with work := rest } := by
  induction hm : shifterLeft s generalizing s with
  | zero =>
    have hd := shiftDone_of_shifterLeft hm
    have he : s.shifterEnabled = false := by rw [shifterEnabled_eq, hd]; rfl
    have hb : microStep s = { s with work := rest } := by
      rw [microStep, he, if_neg (by simp), blockStep, hw]; simp [hd]
    rw [Nat.add_zero, drain_succ h.noReset h.exec, hb, shifterRun]
  | succ m ih =>
    have he := shifterEnabled_of_shifterLeft hm
    have hms : microStep s = shifterStep s := by rw [microStep, he, if_pos rfl]
    obtain ⟨k1, k2, k3⟩ := shifterStep_keeps s
    rw [show n + 1 + (m + 1) = (n + 1 + m) + 1 from rfl, drain_succ h.noReset h.exec, hms,
      ih ⟨k1.trans h.exec, k2.trans h.noReset⟩ (k3.trans hw) (by have := shifterLeft_step he; omega), shifterRun]

/-- Within the invariants the shifter, left to run, ends in `settled`. -/
theorem shifterRun_settled {s : State} (hbus : s.busInv) (hlink : s.linkInv) :
    shifterRun (shifterLeft s) s = settled s := by
  induction hm : shifterLeft s generalizing s with
  | zero => rw [shifterRun, settled, if_pos (shiftDone_of_shifterLeft hm)]
  | succ m ih =>
    have := shifterLeft_step (shifterEnabled_of_shifterLeft hm)
    rw [shifterRun, ih (shifterStep_busInv hbus) (shifterStep_linkInv hbus hlink) (by omega), settled_step hbus hlink]

theorem shifterRun_keeps (n : Nat) (s : State) :
    (shifterRun n s).cmdst = s.cmdst ∧ (shifterRun n s).resets = s.resets := by
  induction n generalizing s with
  | zero => exact ⟨rfl, rfl⟩
  | succ n ih => exact ⟨(ih _).1.trans (shifterStep_keeps s).1, (ih _).2.trans (shifterStep_keeps s).2.1⟩

theorem shifterRun_done (s : State) : (shifterRun (shifterLeft s) s).shiftDone = true := by
  induction hm : shifterLeft s generalizing s with
  | zero => exact shiftDone_of_shifterLeft hm
  | succ m ih =>
    have := shifterLeft_step (shifterEnabled_of_shifterLeft hm)
    exact ih _ (by omega)

/-- The command and its bookkeeping do not matter to the shifter. -/
theorem shifterRun_setCommand (n : Nat) (s : State) (st : CmdState) (w : List MicroOp) :
    shifterRun n { s with cmdst := st, work := w } = { shifterRun n s with cmdst := st, work := w } := by
  induction n generalizing s with
  | zero => rfl
  | succ n ih =>
    have : shifterStep { s with cmdst := st, work := w } = { shifterStep s with cmdst := st, work := w } := by
      unfold shifterStep State.loadEnabled State.shiftEnabled State.finishEnabled
      dsimp only
      split
      · rfl
      · split
        · simp only [shiftBit, emit, receive]; split <;> rfl
        · split <;> rfl
    rw [shifterRun, this, ih, shifterRun]

/-- BUS_WAIT's statements, run with no reset on its way: the shifter runs to its end, then OK. -/
theorem run_wait {s : State} (hr : s.resets = []) :
    runCommand [.wait, .respond .ok] s = completed .ok (shifterRun (shifterLeft s) s) := by
  have hrun : Running { s with cmdst := .exec, work := [.wait, .respond .ok] } := ⟨rfl, hr⟩
  have hle := shifterLeft_le s
  have hlen : drainBound [.wait, .respond .ok] = (107 - shifterLeft s - 1 + 1) + 1 + shifterLeft s := by
    simp [drainBound]; omega
  have hd := shifterRun_done s
  have hk := shifterRun_keeps (shifterLeft s) s
  rw [runCommand, hlen]
  have hwait := drain_wait hrun rfl (107 - shifterLeft s - 1 + 1)
  refine (show _ = _ from hwait).trans ?_
  rw [shifterRun_setCommand]
  have hms : microStep { shifterRun (shifterLeft s) s with cmdst := .exec, work := [.respond .ok] } =
      completed .ok (shifterRun (shifterLeft s) s) := by
    rw [microStep, shifterEnabled_eq, show State.shiftDone { shifterRun (shifterLeft s) s with
      cmdst := .exec, work := [.respond .ok] } = true from hd]
    rfl
  refine (drain_succ (s := { shifterRun (shifterLeft s) s with cmdst := .exec, work := [.respond .ok] })
    (hk.2.trans hr) rfl _).trans ?_
  rw [hms, drain_not_exec (by simp [completed])]

end Sys2Proof.Machine
end

