-- ==== Sys2Proof/Laws/Command.lean ====
section
/-! SUPPORT. Once for each shared operation what it can do: the block's step, the reset input, a translated list, a command as a whole, and one step of the machine. -/

namespace Sys2Proof.Machine

/-! ## The block's step (Machine/Ops.lean) -/

/-- Everything one step of the block can do, by the statement it stands at. -/
theorem blockStep_cases (s : State) :
    (s.work = [] ∧ blockStep s = s) ∨
    (∃ q src rest, s.work = .start q src :: rest ∧
      blockStep s = { s with seq := q, work := txnSteps (sourceFrame s src) ++ rest }) ∨
    (∃ rest, s.work = .select :: rest ∧ blockStep s = { selectLine s with work := rest }) ∨
    (∃ f rest, s.work = .write f :: rest ∧ blockStep s = { writeTxdr f s with work := rest }) ∨
    (∃ rest, s.work = .wait :: rest ∧ s.shiftDone = true ∧ blockStep s = { s with work := rest }) ∨
    (∃ rest, s.work = .wait :: rest ∧ s.shiftDone = false ∧ blockStep s = s) ∨
    (∃ rest, s.work = .deselect :: rest ∧ blockStep s = { deselectLine s with work := rest }) ∨
    (∃ rest, s.work = .setInit :: rest ∧ blockStep s = { s with initd := true, work := rest }) ∨
    (∃ c rest, s.work = .respond c :: rest ∧ blockStep s = respond c s) := by
  rcases hw : s.work with _ | ⟨op, rest⟩
  · exact .inl ⟨rfl, by simp [blockStep, hw]⟩
  · cases op <;> cases hd : s.shiftDone <;> simp [blockStep, hw, hd]

/-! ## The reset input (70_reset_and_hazards.md R272) -/

/-- On a high line a reset emits nothing. -/
theorem releaseLine_high {s : State} (h : s.ssn = true) : releaseLine s = s := by simp [releaseLine, h]

/-- On a low line a reset drives it high, and the receiver latches a whole frame or records a short one. -/
theorem releaseLine_low {s : State} (h : s.ssn = false) :
    releaseLine s = { s with
      ssn := true, trace := s.trace ++ [.ssRise]
      frames := s.frames ++
        [if s.rxbits.length = 16 then .full (frameOfBits s.rxbits) else .partialOf s.rxbits.length]
      drv := if s.rxbits.length = 16 then
        Memory.put s.drv (frameAddr (frameOfBits s.rxbits)).toNat (frameData (frameOfBits s.rxbits)) else [] } := by
  simp only [releaseLine, h, emit, receive, Bool.false_eq_true, if_false]
  by_cases hl : s.rxbits.length = 16 <;> simp [hl, latchFrame, latchPartial]

/-- A reset keeps the outside world's plan, the configuration record, RXBITS and what the host has read (log 3, 6, 11). -/
theorem resetInput_keeps (s : State) :
    (resetInput s).program = s.program ∧ (resetInput s).reads = s.reads ∧ (resetInput s).cfg = s.cfg ∧
      (resetInput s).rxbits = s.rxbits ∧ (resetInput s).resets = s.resets ∧ (resetInput s).sched = s.sched ∧
      (resetInput s).draws = s.draws := by
  cases h : s.ssn <;> simp [resetInput, releaseLine_high, releaseLine_low, h]

/-! ## A translated list (42_bitmap.md R201) -/

theorem bitmask_getLsbD : ∀ c k : Fin 8, (bitmask c).getLsbD k.val = decide (k = c) := by decide

/-- The bits of the rows after the pixels of a list are set: the union of what was there and the list. -/
theorem setPixels_getLsbD (ps : List Pixel) (s : State) (r : Row) (k : Fin 8) :
    ((ps.foldl setPixel s).readRow r).getLsbD k.val =
      ((s.readRow r).getLsbD k.val || decide (⟨k, r⟩ ∈ ps)) := by
  induction ps generalizing s with
  | nil => simp
  | cons p ps ih =>
    have hne : s.readRow p.row ||| bitmask p.col ≠ 0x00 := by
      intro h
      have := congrArg (·.getLsbD p.col.val) h
      simp [bitmask] at this
    have hr : (setPixel s p).readRow r = if r = p.row then s.readRow p.row ||| bitmask p.col else s.readRow r := by
      show Memory.read (Memory.write s.fb _ _) _ = _
      rw [Memory.read_write_ne_zero _ _ _ hne]
      by_cases h : r = p.row
      · simp [h]
      · rw [if_neg h, if_neg (fun h' => h (rowNumber_inj.mp h').symm)]; rfl
    rw [List.foldl_cons, ih, hr]
    obtain ⟨c, q⟩ := p
    by_cases h : r = q
    · subst h
      rw [if_pos rfl, BitVec.getLsbD_or, bitmask_getLsbD]
      by_cases hc : k = c <;> simp [hc]
    · simp [h]

/-- A list changes nothing of the state but the frame buffer. -/
theorem setPixels_frame (ps : List Pixel) (s : State) :
    ps.foldl setPixel s = { s with fb := (ps.foldl setPixel s).fb } := by
  induction ps generalizing s with
  | nil => rfl
  | cons p ps ih => rw [List.foldl_cons, ih]; rfl

/-- Setting pixels keeps the canonical form of the frame buffer. -/
theorem setPixels_wf (ps : List Pixel) {s : State} (h : Memory.wf s.fb = true) :
    Memory.wf (ps.foldl setPixel s).fb = true := by
  induction ps generalizing s with
  | nil => exact h
  | cons p ps ih => exact ih (writeRow_wf h _ _)

/-- Everything a list that executes can do. -/
theorem translate_cases (ws : List Word) (s : State) :
    translate ws s = raise .illegalCommand s ∨ translate ws s = raise .invalidCoordinate s ∨
      ∃ ps, pixelsOf ws = some ps ∧ translate ws s = respond .ok (ps.foldl setPixel s) := by
  unfold translate
  split
  · exact .inl rfl
  · split
    · exact .inr (.inl rfl)
    · exact .inr (.inr ⟨_, ‹_›, rfl⟩)

/-! ## A command as a whole -/

/-- A composite command, with no reset on its way: refused for the bus, or completed with its frames sent. -/
theorem composite_cases (items : List (Nat × FrameSource)) {s : State} (hr : s.resets = []) :
    composite (txnOps items) s = raise .busNotIdle s ∨
      composite (txnOps items) s = completed .ok (sentFrames s (txnFrames s items)) := by
  cases h : s.busIdle
  · exact .inl (composite_not_idle _ h)
  · exact .inr (composite_sends items h hr)

/-- Everything a command can do, with no reset on its way: an error and nothing else; frames sent on an idle bus; one of
the primitives' effects; or a list begun, continued or translated. -/
theorem exec_cases (i : Instr) (s : State) (hr : s.resets = []) :
    (∃ c, c ≠ .ok ∧ exec i s = .next (raise c s)) ∨
    (s.busIdle = true ∧ ∃ fs, exec i s = .next (completed .ok (sentFrames s fs)) ∨
      i = .matrixInit ∧ exec i s = .next (completed .ok { sentFrames s fs with initd := true })) ∨
    (s.ssn = true ∧ exec i s = .next (respond .ok (selectLine s))) ∨
    (∃ f, s.ssn = false ∧ s.wr = false ∧ exec i s = .next (respond .ok (writeTxdr f s))) ∨
    exec i s = .next (completed .ok (shifterRun (shifterLeft s) s)) ∨
    (s.ssn = false ∧ s.wr = true ∧ s.shiftDone = true ∧ exec i s = .next (respond .ok (deselectLine s))) ∨
    exec i s = .next (respond .ok s) ∨
    (∃ n, i = .translateList n ∧ n ≠ 0 ∧ exec i s = .next { s with list := ⟨n, []⟩, cmdst := .collect }) ∨
    (∃ w, i = .translateWord w ∧ s.cmdst = .collect ∧ s.list.words.length + 1 ≠ s.list.count.toNat ∧
      exec i s = .next { s with list := ⟨s.list.count, s.list.words ++ [w]⟩ }) ∨
    ∃ w, i = .translateWord w ∧ s.cmdst = .collect ∧ s.list.words.length + 1 = s.list.count.toNat ∧
      exec i s = .next (translate (s.list.words ++ [w]) { s with cmdst := .exec, list := .empty }) := by
  have frame (f : Frame) : (∃ c, c ≠ Resp.ok ∧ sendFrame f s = raise c s) ∨
      s.busIdle = true ∧ sendFrame f s = completed .ok (sentFrames s [f]) := by
    cases h : s.busIdle
    · exact .inl ⟨_, by decide, composite_not_idle _ h⟩
    · exact .inr ⟨rfl, sendFrame_sends f h hr⟩
  have lift {t : State} (he : exec i s = .next t)
      (h : (∃ c, c ≠ Resp.ok ∧ t = raise c s) ∨ s.busIdle = true ∧ ∃ fs, t = completed .ok (sentFrames s fs)) :
      (∃ c, c ≠ Resp.ok ∧ exec i s = .next (raise c s)) ∨
      (s.busIdle = true ∧ ∃ fs, exec i s = .next (completed .ok (sentFrames s fs)) ∨
        i = .matrixInit ∧ exec i s = .next (completed .ok { sentFrames s fs with initd := true })) := by
    obtain ⟨c, hc, rfl⟩ | ⟨hb, fs, rfl⟩ := h
    · exact .inl ⟨c, hc, he⟩
    · exact .inr ⟨hb, fs, .inl he⟩
  have widen {p q rest : Prop} (h : p ∨ q) : p ∨ q ∨ rest := h.elim .inl fun h => .inr (.inl h)
  have one (f : Frame) (he : exec i s = .next (sendFrame f s)) := lift he ((frame f).imp_right fun h => ⟨h.1, _, h.2⟩)
  have many (items : List (Nat × FrameSource)) (he : exec i s = .next (composite (txnOps items) s)) :=
    lift he (by
      cases h : s.busIdle
      · exact .inl ⟨_, by decide, composite_not_idle _ h⟩
      · exact .inr ⟨rfl, _, composite_sends items h hr⟩)
  cases i with
  | transmit f => exact widen (one _ rfl)
  | writeReg a v => exact widen (one _ rfl)
  | decodeOff => exact widen (one _ rfl)
  | setIntensity l => exact widen (one _ rfl)
  | scanLimitAll => exact widen (one _ rfl)
  | setOpmode on => exact widen (one _ rfl)
  | setDisplayTest on => exact widen (one _ rfl)
  | writeRow r v =>
    by_cases hb : s.busIdle = true
    · cases hrow : rowOperand r with
      | none => exact .inl ⟨.invalidRow, by decide, by simp [exec, execWriteRow, hb, hrow]⟩
      | some row => exact widen (one (mkFrame (rowAddr row) v) (by simp [exec, execWriteRow, hb, hrow]))
    · exact .inl ⟨.busNotIdle, by decide, by simp [exec, execWriteRow, hb]⟩
  | matrixInit =>
    cases hb : s.busIdle
    · exact .inl ⟨.busNotIdle, by decide, congrArg _ (composite_not_idle _ hb)⟩
    · exact .inr (.inl ⟨rfl, _, .inr ⟨rfl, congrArg _ (composite_sends_init
        ((initFrames s.cfg ++ allRows.map clearFrame).mapIdx fun n f => (n + 1, .const f)) hb hr)⟩⟩)
  | matrixClear =>
    exact widen (many ((allRows.map clearFrame).mapIdx fun n f => (n + 1, .const f)) rfl)
  | translateList n =>
    by_cases hn : n = 0
    · iterate 6 right
      exact .inl (by simp [exec, execTranslateList, hn])
    · iterate 7 right
      exact .inl ⟨n, rfl, hn, congrArg _ (if_neg hn)⟩
  | translateWord w =>
    by_cases hc : s.cmdst = .collect
    · by_cases hl : s.list.words.length + 1 = s.list.count.toNat
      · iterate 9 right
        exact ⟨w, rfl, hc, hl, by simp [exec, execTranslateWord, hc, hl]⟩
      · iterate 8 right
        exact .inl ⟨w, rfl, hc, hl, by simp [exec, execTranslateWord, hc, hl]⟩
    · exact .inl ⟨.illegalCommand, by decide, by simp [exec, execTranslateWord, hc]⟩
  | renderFull => exact widen (many (allRows.map fun r => (rowNumber r, .row r 0xFF)) rfl)
  | renderRow r =>
    by_cases hb : s.busIdle = true
    · cases hrow : rowOperand r with
      | none => exact .inl ⟨.invalidRow, by decide, by simp [exec, execRenderRow, hb, hrow]⟩
      | some row => exact widen (many [(1, .row row 0xFF)] (by simp [exec, execRenderRow, hb, hrow, renderRowSteps, txnOps]))
    · exact .inl ⟨.busNotIdle, by decide, by simp [exec, execRenderRow, hb]⟩
  | renderCols c => exact widen (many (allRows.map fun r => (rowNumber r, .row r (colmask c))) rfl)
  | busSelect =>
    cases h : s.ssn
    · exact .inl ⟨.selectWhileSelected, by decide, by simp [exec, execBusSelect, h]⟩
    · iterate 2 right
      exact .inl ⟨rfl, by simp [exec, execBusSelect, h]⟩
  | busWrite f =>
    cases h : s.ssn
    · cases hw : s.wr
      · iterate 3 right
        exact .inl ⟨f, rfl, rfl, by simp [exec, execBusWrite, h, hw]⟩
      · exact .inl ⟨.secondWrite, by decide, by simp [exec, execBusWrite, h, hw]⟩
    · exact .inl ⟨.writeWithoutSelect, by decide, by simp [exec, execBusWrite, h]⟩
  | busWait =>
    iterate 4 right
    exact .inl (congrArg _ (run_wait hr))
  | busDeselect =>
    cases h : s.ssn
    · cases hw : s.wr
      · exact .inl ⟨.deselectEmpty, by decide, by simp [exec, execBusDeselect, h, hw]⟩
      · cases hd : s.shiftDone
        · exact .inl ⟨.deselectMidShift, by decide, by simp [exec, execBusDeselect, h, hw, hd]⟩
        · iterate 5 right
          exact .inl ⟨rfl, rfl, rfl, by simp [exec, execBusDeselect, h, hw, hd]⟩
    · exact .inl ⟨.deselectNotSelected, by decide, by simp [exec, execBusDeselect, h]⟩

/-! ## One step of the machine (Machine/HostPort.lean) -/

/-- Everything a step that answers a next state can do: the reset input; one small step of an executing command; a step
of the shifter, with or without a turn used; a host action, with or without a turn used; or nothing. -/
theorem step_cases {s t : State} (h : step s = .next t) :
    s.cfg.wf = true ∧
    ((s.resets.head? = some 0 ∧ t = takeReset s) ∨
    (s.resets.head? ≠ some 0 ∧ s.cmdst = .exec ∧ t = microStep (tick s)) ∨
    (s.resets.head? ≠ some 0 ∧ s.cmdst ≠ .exec ∧ s.shifterEnabled = true ∧
      (s.program = [] ∧ t = shifterStep (tick s) ∨ t = shifterStep (useTurn (tick s)))) ∨
    (s.resets.head? ≠ some 0 ∧ s.cmdst ≠ .exec ∧ ∃ a rest, s.program = a :: rest ∧
      (hostMove a { tick s with program := rest } = .next t ∨
        hostMove a { useTurn (tick s) with program := rest } = .next t)) ∨
    (s.resets.head? ≠ some 0 ∧ s.cmdst ≠ .exec ∧ s.shifterEnabled = false ∧ s.program = [] ∧ t = tick s)) := by
  unfold step nextStep at h
  split at h
  · refine ⟨‹_›, ?_⟩
    split at h
    · exact .inl ⟨‹_›, by simpa using h.symm⟩
    · right
      split at h
      · unfold heldMove at h
        split at h
        · exact .inl ⟨‹_›, ‹_›, by simpa using h.symm⟩
        · cases h
      · right
        have he : (tick s).shifterEnabled = s.shifterEnabled := rfl
        unfold freeMove at h
        rcases hp : s.program with _ | ⟨a, rest⟩
        · simp only [tick_program, hp, he] at h
          split at h
          · exact .inl ⟨‹_›, ‹_›, ‹_›, .inl ⟨rfl, by simpa using h.symm⟩⟩
          · unfold nobodyMoves at h
            split at h
            · cases h
            · exact .inr (.inr ⟨‹_›, ‹_›, by simpa using ‹¬s.shifterEnabled = true›, rfl, by simpa using h.symm⟩)
        · simp only [tick_program, hp, he] at h
          split at h
          · split at h
            · exact .inl ⟨‹_›, ‹_›, ‹_›, .inr (by simpa using h.symm)⟩
            · exact .inr (.inl ⟨‹_›, ‹_›, a, rest, rfl, .inr h⟩)
          · exact .inr (.inl ⟨‹_›, ‹_›, a, rest, rfl, .inl h⟩)
  · cases h

end Sys2Proof.Machine
end

