-- ==== Sys2Proof/Laws/PerInstr.lean ====
section
/-! SUPPORT. The per-instruction family OwnRow: the word of a command matches the mask and pattern of its own row of the opcode table. -/

namespace Sys2Proof.Laws.OwnRow

/-- The row of the opcode table under the command's name covers the command's word. A data word of TRANSLATE_LIST is not
decoded by the table (30_encoding.md R100); the port takes it whole. -/
def Statement (i : Instr) : Prop :=
  if i.isDataWord then decodePort true (encode i) = .ok i
  else ∃ t ∈ opcodeTable, t.mnemonic = i.mnemonic ∧ t.covers (encode i) = true

theorem transmit (frame : Frame) : Statement (.transmit frame) := by
  refine ⟨⟨"TRANSMIT", 0xFFFF0000, 0x10000000⟩, by decide, rfl, ?_⟩
  simp only [OpRow.covers, beq_iff_eq, encode, opWord]
  apply BitVec.eq_of_getLsbD_eq; intro k hk; interval_cases k <;> simp

theorem writeReg (addr value : Byte) : Statement (.writeReg addr value) := by
  refine ⟨⟨"WRITE_REG", 0xFFFF0000, 0x20000000⟩, by decide, rfl, ?_⟩
  simp only [OpRow.covers, beq_iff_eq, encode, opWord]
  apply BitVec.eq_of_getLsbD_eq; intro k hk; interval_cases k <;> simp

theorem decodeOff : Statement .decodeOff := ⟨⟨"DECODE_OFF", 0xFFFFFFFF, 0x30000000⟩, by decide, rfl, by decide⟩

theorem setIntensity (level : BitVec 4) : Statement (.setIntensity level) := by
  refine ⟨⟨"SET_INTENSITY", 0xFFFFFFF0, 0x40000000⟩, by decide, rfl, ?_⟩
  simp only [OpRow.covers, beq_iff_eq, encode, opWord]
  apply BitVec.eq_of_getLsbD_eq; intro k hk; interval_cases k <;> simp

theorem scanLimitAll : Statement .scanLimitAll :=
  ⟨⟨"SCAN_LIMIT_ALL", 0xFFFFFFFF, 0x50000000⟩, by decide, rfl, by decide⟩

theorem setOpmode (on : Bool) : Statement (.setOpmode on) :=
  ⟨⟨"SET_OPMODE", 0xFFFFFFFE, 0x60000000⟩, by decide, rfl, by cases on <;> decide⟩

theorem setDisplayTest (on : Bool) : Statement (.setDisplayTest on) :=
  ⟨⟨"SET_DISPLAY_TEST", 0xFFFFFFFE, 0x70000000⟩, by decide, rfl, by cases on <;> decide⟩

theorem writeRow (row : BitVec 4) (value : Byte) : Statement (.writeRow row value) := by
  refine ⟨⟨"WRITE_ROW", 0xFFFFF000, 0x80000000⟩, by decide, rfl, ?_⟩
  simp only [OpRow.covers, beq_iff_eq, encode, opWord]
  apply BitVec.eq_of_getLsbD_eq; intro k hk; interval_cases k <;> simp

theorem matrixInit : Statement .matrixInit := ⟨⟨"MATRIX_INIT", 0xFFFFFFFF, 0x90000000⟩, by decide, rfl, by decide⟩

theorem matrixClear : Statement .matrixClear := ⟨⟨"MATRIX_CLEAR", 0xFFFFFFFF, 0xA0000000⟩, by decide, rfl, by decide⟩

theorem translateList (count : Byte) : Statement (.translateList count) := by
  refine ⟨⟨"TRANSLATE_LIST", 0xFFFFFF00, 0xB0000000⟩, by decide, rfl, ?_⟩
  simp only [OpRow.covers, beq_iff_eq, encode, opWord]
  apply BitVec.eq_of_getLsbD_eq; intro k hk; interval_cases k <;> simp

theorem translateWord (word : Word) : Statement (.translateWord word) := rfl

theorem renderFull : Statement .renderFull := ⟨⟨"RENDER_FULL", 0xFFFFFFFF, 0xC0000000⟩, by decide, rfl, by decide⟩

theorem renderRow (row : BitVec 4) : Statement (.renderRow row) := by
  refine ⟨⟨"RENDER_ROW", 0xFFFFFFF0, 0xD0000000⟩, by decide, rfl, ?_⟩
  simp only [OpRow.covers, beq_iff_eq, encode, opWord]
  apply BitVec.eq_of_getLsbD_eq; intro k hk; interval_cases k <;> simp

theorem renderCols (col : Byte) : Statement (.renderCols col) := by
  refine ⟨⟨"RENDER_COLS", 0xFFFFFF00, 0xE0000000⟩, by decide, rfl, ?_⟩
  simp only [OpRow.covers, beq_iff_eq, encode, opWord]
  apply BitVec.eq_of_getLsbD_eq; intro k hk; interval_cases k <;> simp

theorem busSelect : Statement .busSelect := ⟨⟨"BUS_SELECT", 0xFFFFFFFF, 0xF0000000⟩, by decide, rfl, by decide⟩

theorem busWrite (frame : Frame) : Statement (.busWrite frame) := by
  refine ⟨⟨"BUS_WRITE", 0xFFFF0000, 0xF1000000⟩, by decide, rfl, ?_⟩
  simp only [OpRow.covers, beq_iff_eq, encode]
  apply BitVec.eq_of_getLsbD_eq; intro k hk; interval_cases k <;> simp

theorem busWait : Statement .busWait := ⟨⟨"BUS_WAIT", 0xFFFFFFFF, 0xF2000000⟩, by decide, rfl, by decide⟩

theorem busDeselect : Statement .busDeselect :=
  ⟨⟨"BUS_DESELECT", 0xFFFFFFFF, 0xF3000000⟩, by decide, rfl, by decide⟩

end Sys2Proof.Laws.OwnRow
end

