-- ==== Sys2Proof/Tests/Slice0.lean ====
section
/-! SUPPORT. Tests of the model (expected results from 95_test_vectors.md and the tables of the rules) and witnesses for the hypotheses of the statements. -/

namespace Sys2Proof.Tests

open Sys2Proof.Machine

/-! ## Helpers -/

/-- The default register map with `INIT_INTENSITY` = 8 (95_test_vectors.md, conventions), every parameter a number. -/
def cfg8 : Config :=
  { Config.default 8 with sckHz := 1000000, ssLine := 0, spiCpol := false, spiCpha := false, cmdBase := 0x40 }

/-- Reset, with that configuration. -/
def start : State := { State.reset with cfg := cfg8 }

/-- The state a command leaves. -/
def after (i : Instr) (s : State) : State :=
  match exec i s with
  | .next t => t
  | _ => s

/-- Does a command answer a next state with the property? -/
def ends (i : Instr) (s : State) (p : State → Bool) : Bool :=
  match exec i s with
  | .next t => p t
  | _ => false

/-- The same of one step of the machine. -/
def stepEnds (s : State) (p : State → Bool) : Bool :=
  match step s with
  | .next t => p t
  | _ => false

/-- The state a step leaves. -/
def afterStep (s : State) : State :=
  match step s with
  | .next t => t
  | _ => s

theorem exec_after {i : Instr} {s : State} (h : ends i s (fun _ => true) = true) : exec i s = .next (after i s) := by
  unfold ends at h
  unfold after
  split at h
  · simp [*]
  · cases h

theorem step_after {s : State} (h : stepEnds s (fun _ => true) = true) : step s = .next (afterStep s) := by
  unfold stepEnds at h
  unfold afterStep
  split at h
  · simp [*]
  · cases h

/-- The whole frames among those latched, in order. -/
def whole (fs : List Frame) : List Latched := fs.map .full

/-- S1's end state: rows 4 to 7 hold 0x02, 0x01, 0x01, 0x02. -/
def drawn : State := { start with fb := [(4, 0x02), (5, 0x01), (6, 0x01), (7, 0x02)] }

/-- A list of `n` words being collected, with `ws` there already. -/
def collecting (n : Byte) (ws : List Word) : State := { start with cmdst := .collect, list := ⟨n, ws⟩ }

/-- A transaction opened by BUS_SELECT. -/
def opened : State := after .busSelect start

/-- The same after BUS_WRITE 0x0100, before LOAD. -/
def written : State := after (.busWrite 0x0100) opened

/-- The same after LOAD. -/
def loaded : State := shifterStep written

/-- The same after BUS_WAIT. -/
def waited : State := after .busWait written

/-- TRANSMIT 0x0C01 at its wait, after LOAD. -/
def executing : State :=
  { loaded with cmdst := .exec, work := [.wait, .deselect, .respond .ok] }

/-- A state whose host is about to perform one action. -/
def offering (a : HostAction) (s : State) : State := { s with program := [a] }

/-! ## WellFormed: what each check refuses (00_scope.md R7, 30_encoding.md R101) -/

theorem test_wf_default_config : cfg8.wf = true := by decide

theorem test_wf_register_at_row_1 : Config.wf { cfg8 with regDecode := 1 } = false := by decide

theorem test_wf_register_at_row_8 : Config.wf { cfg8 with regDisplayTest := 8 } = false := by decide

theorem test_wf_register_at_0_and_9 : Config.wf { cfg8 with regIntensity := 0, regDecode := 9 } = true := by decide

theorem test_wf_equal_registers : Config.wf { cfg8 with regShutdown := 0x0B } = false := by decide

theorem test_wf_frames :
    Asm.wf (.transmit 0xFFFF) = true ∧ Asm.wf (.transmit 0x10000) = false ∧ Asm.wf (.busWrite 0x10000) = false := by
  decide

theorem test_wf_register_write : Asm.wf (.writeReg 256 0) = false ∧ Asm.wf (.writeReg 0 256) = false := by decide

theorem test_wf_level_and_switches :
    Asm.wf (.setIntensity 16) = false ∧ Asm.wf (.setOpmode 2) = false ∧ Asm.wf (.setDisplayTest 2) = false := by decide

theorem test_wf_rows_and_columns :
    Asm.wf (.writeRow 16 0) = false ∧ Asm.wf (.writeRow 0 256) = false ∧ Asm.wf (.renderRow 16) = false ∧
      Asm.wf (.renderRow 9) = true ∧ Asm.wf (.renderCols 256) = false := by decide

theorem test_wf_coordinates :
    Asm.wf (.translate 16 1) = false ∧ Asm.wf (.translate 1 16) = false ∧
      Asm.wf (.translateList [(1, 1), (1, 16)]) = false ∧ Asm.wf (.translateList [(16, 1)]) = false := by decide

theorem test_wf_list_length :
    Asm.wf (.translateList (List.replicate 255 (1, 1))) = true ∧
      Asm.wf (.translateList (List.replicate 256 (1, 1))) = false := by decide +kernel

/-! ## Decode: the words of 95_test_vectors.md V1, each written out from the format tables -/

theorem test_decode_transmit : decode 0b00010000000000000000110000000001 = .ok (.transmit 0x0C01) := rfl

theorem test_decode_writeReg : decode 0b00100000000000000000101000001000 = .ok (.writeReg 0x0A 0x08) := rfl

theorem test_decode_decodeOff : decode 0x30000000 = .ok .decodeOff := rfl

theorem test_decode_setIntensity : decode 0b01000000000000000000000000001111 = .ok (.setIntensity 15) := rfl

theorem test_decode_scanLimitAll : decode 0x50000000 = .ok .scanLimitAll := rfl

theorem test_decode_setOpmode : decode 0x60000001 = .ok (.setOpmode true) := rfl

theorem test_decode_setDisplayTest : decode 0x70000000 = .ok (.setDisplayTest false) := rfl

theorem test_decode_writeRow : decode 0b10000000000000000000111100000001 = .ok (.writeRow 15 0x01) := rfl

theorem test_decode_matrixInit : decode 0x90000000 = .ok .matrixInit := rfl

theorem test_decode_matrixClear : decode 0xA0000000 = .ok .matrixClear := rfl

theorem test_decode_translateList : decode 0b10110000000000000000000011111111 = .ok (.translateList 255) := rfl

theorem test_decode_dataWord :
    decodePort true 0x00000027 = .ok (.translateWord 0x27) ∧ xField 0x27 = 2 ∧ yField 0x27 = 7 := ⟨rfl, rfl, rfl⟩

theorem test_decode_renderFull : decode 0xC0000000 = .ok .renderFull := rfl

theorem test_decode_renderRow : decode 0b11010000000000000000000000001001 = .ok (.renderRow 9) := rfl

theorem test_decode_renderCols : decode 0b11100000000000000000000011111111 = .ok (.renderCols 255) := rfl

theorem test_decode_busSelect : decode 0xF0000000 = .ok .busSelect := rfl

theorem test_decode_busWrite : decode 0b11110001000000001111111111111110 = .ok (.busWrite 0xFFFE) := rfl

theorem test_decode_busWait : decode 0xF2000000 = .ok .busWait := rfl

theorem test_decode_busDeselect : decode 0xF3000000 = .ok .busDeselect := rfl

theorem test_decode_stray_data_word : decode 0x00000011 = .error .opZero := rfl

theorem test_decode_undefined_sub :
    decode 0xF4000000 = .error .subUndefined ∧ decode 0xFF000000 = .error .subUndefined := ⟨rfl, rfl⟩

theorem test_decode_reserved_bits_low :
    decode 0x30000001 = .error .reservedBit ∧ decode 0x40000010 = .error .reservedBit ∧
      decode 0x60000002 = .error .reservedBit ∧ decode 0xD0000010 = .error .reservedBit ∧
      decode 0xF0000001 = .error .reservedBit := ⟨rfl, rfl, rfl, rfl, rfl⟩

theorem test_decode_reserved_bits_high :
    decode 0x10010000 = .error .reservedBit ∧ decode 0x21000000 = .error .reservedBit ∧
      decode 0x80001000 = .error .reservedBit ∧ decode 0x98000000 = .error .reservedBit ∧
      decode 0xB0000100 = .error .reservedBit ∧ decode 0xE0000100 = .error .reservedBit ∧
      decode 0xF1010000 = .error .reservedBit := ⟨rfl, rfl, rfl, rfl, rfl, rfl, rfl⟩

theorem test_opcode_rows_do_not_overlap :
    opcodeTable.Pairwise (fun a b => a.pattern &&& (a.mask &&& b.mask) ≠ b.pattern &&& (a.mask &&& b.mask)) := by decide

/-! ## The assembler (30_encoding.md R101, R102; 95_test_vectors.md P2, P3) -/

theorem test_assemble_text :
    assembleText "TRANSLATE_LIST [(3,1),(8,1),(5,8)] ; three pixels\nRENDER_COLS 0x3\n\nRENDER_ROW 9\nNORMAL_OP\n" =
      some [0xB0000003, 0x31, 0x81, 0x58, 0xE0000003, 0xD0000009, 0x60000001] := by decide +kernel

theorem test_assemble_refuses :
    assembleText "RENDER_ROW 16" = none ∧ assembleText "NO_SUCH 1" = none ∧ assembleText "WRITE_REG 1" = none := by
  decide +kernel

/-! ## Commands (95_test_vectors.md S1 to S10, V3 to V7) -/

/-- S9. -/
theorem test_transmit :
    ends (.transmit 0x0C01) start (fun t =>
      t.status == 0x5 && t.frames == whole [0x0C01] && t.drv == [(0x0C, 0x01)] &&
        t.trace == .ssFall :: [false, false, false, false, true, true, false, false, false, false, false, false, false,
          false, false, true].map .bit ++ [.ssRise]) = true := by decide +kernel

/-- V3. -/
theorem test_transmit_bus_not_idle :
    ends (.transmit 0x0C01) opened (fun t => t.status == 0x421 && t.trace == [.ssFall]) = true := by decide +kernel

theorem test_writeReg : ends (.writeReg 0x0A 0x08) start (fun t => t.frames == whole [0x0A08]) = true := by
  decide +kernel

theorem test_writeReg_any_address : ends (.writeReg 0xFF 0xFE) start (fun t => t.frames == whole [0xFFFE]) = true := by
  decide +kernel

theorem test_decodeOff : ends .decodeOff start (fun t => t.frames == whole [0x0900]) = true := by decide +kernel

theorem test_setIntensity : ends (.setIntensity 15) start (fun t => t.frames == whole [0x0A0F]) = true := by
  decide +kernel

theorem test_scanLimitAll : ends .scanLimitAll start (fun t => t.frames == whole [0x0B07]) = true := by decide +kernel

theorem test_setOpmode_off : ends (.setOpmode false) start (fun t => t.frames == whole [0x0C00]) = true := by
  decide +kernel

theorem test_setOpmode_on : ends (.setOpmode true) start (fun t => t.frames == whole [0x0C01]) = true := by
  decide +kernel

theorem test_setDisplayTest_off : ends (.setDisplayTest false) start (fun t => t.frames == whole [0x0F00]) = true := by
  decide +kernel

theorem test_setDisplayTest_on : ends (.setDisplayTest true) start (fun t => t.frames == whole [0x0F01]) = true := by
  decide +kernel

theorem test_writeRow : ends (.writeRow 8 0x01) start (fun t => t.frames == whole [0x0801] && t.fb == []) = true := by
  decide +kernel

theorem test_writeRow_invalid :
    ends (.writeRow 0 0xFF) start (fun t => t.status == 0x205 && t.frames == []) = true ∧
      ends (.writeRow 9 0xFF) start (fun t => t.status == 0x205 && t.frames == []) = true := by decide +kernel

/-- S8. -/
theorem test_matrixInit :
    ends .matrixInit start (fun t => t.status == 0x15 && t.frames == whole [0x0900, 0x0A08, 0x0B07, 0x0C01, 0x0F00,
      0x0100, 0x0200, 0x0300, 0x0400, 0x0500, 0x0600, 0x0700, 0x0800]) = true := by decide +kernel

theorem test_matrixInit_bus_not_idle : ends .matrixInit opened (fun t => t.status == 0x421) = true := by decide +kernel

/-- S5; the frame buffer is not touched. -/
theorem test_matrixClear :
    ends .matrixClear drawn (fun t => t.fb == drawn.fb &&
      t.frames == whole [0x0100, 0x0200, 0x0300, 0x0400, 0x0500, 0x0600, 0x0700, 0x0800]) = true := by decide +kernel

theorem test_translateList_empty : ends (.translateList 0) start (fun t => t == start) = true := by decide +kernel

theorem test_translateList_header :
    ends (.translateList 255) start (fun t => t.cmdst == .collect && t.list == ⟨255, []⟩ && t.status == 5) = true := by
  decide +kernel

/-- S1. -/
theorem test_translateWord_last :
    ends (.translateWord 0x27) (collecting 4 [0x15, 0x16, 0x24]) (fun t => t == drawn) = true := by decide +kernel

/-- S3 and V5: the list is refused whole; ILLEGAL_COMMAND comes before INVALID_COORDINATE. -/
theorem test_translateWord_refused :
    ends (.translateWord 0x00) (collecting 2 [0x88]) (fun t => t.status == 0x105 && t.fb == []) = true ∧
      ends (.translateWord 0x100) (collecting 2 [0x00]) (fun t => t.status == 0x305 && t.fb == []) = true := by
  decide +kernel

/-- S4. -/
theorem test_renderFull :
    ends .renderFull drawn (fun t => t.fb == drawn.fb &&
      t.frames == whole [0x0100, 0x0200, 0x0300, 0x0402, 0x0501, 0x0601, 0x0702, 0x0800]) = true := by decide +kernel

/-- V7: FAULT stays, RESP is overwritten. -/
theorem test_renderFull_after_fault :
    ends .renderFull (after .busDeselect start) (fun t => t.status == 0x25) = true := by decide +kernel

theorem test_renderRow : ends (.renderRow 7) drawn (fun t => t.frames == whole [0x0702]) = true := by decide +kernel

/-- V6: the bus is checked before the row. -/
theorem test_renderRow_errors :
    ends (.renderRow 9) drawn (fun t => t.status == 0x205 && t.frames == []) = true ∧
      ends (.renderRow 9) opened (fun t => t.status == 0x421) = true := by decide +kernel

theorem test_renderCols :
    ends (.renderCols 1) drawn (fun t => t.fb == drawn.fb &&
      t.frames == whole [0x0100, 0x0200, 0x0300, 0x0400, 0x0501, 0x0601, 0x0700, 0x0800]) = true := by decide +kernel

/-- V6: the column mask at its edges. -/
theorem test_colmask :
    colmask 0 = 0x00 ∧ colmask 1 = 0x01 ∧ colmask 7 = 0x7F ∧ colmask 8 = 0xFF ∧ colmask 255 = 0xFF := by decide

/-- S10. -/
theorem test_bitmask : (List.finRange 8).map bitmask = [0x01, 0x02, 0x04, 0x08, 0x10, 0x20, 0x40, 0x80] := by decide

/-- V3. -/
theorem test_busSelect :
    ends .busSelect start (fun t => t.status == 0x1 && t.trace == [.ssFall]) = true ∧
      ends .busSelect opened (fun t => t.status == 0x521) = true := by decide +kernel

theorem test_busWrite : ends (.busWrite 0x0C01) opened (fun t => t.status == 0x8 && t.txdr == 0x0C01) = true := by
  decide +kernel

theorem test_busWrite_faults :
    ends (.busWrite 0x1234) start (fun t => t.status == 0x625) = true ∧
      ends (.busWrite 0x0200) waited (fun t => t.status == 0x729 && t.txdr == 0x0100) = true := by decide +kernel

theorem test_busWait :
    ends .busWait loaded (fun t => t.status == 0x9 && t.trace == .ssFall :: (frameBits 0x0100).map .bit) = true := by
  decide +kernel

theorem test_busDeselect : ends .busDeselect waited (fun t => t.status == 0x5 && t.frames == whole [0x0100]) = true := by
  decide +kernel

theorem test_busDeselect_faults :
    ends .busDeselect start (fun t => t.status == 0xA25) = true ∧
      ends .busDeselect opened (fun t => t.status == 0x821) = true ∧
      ends .busDeselect written (fun t => t.status == 0x928) = true ∧
      ends .busDeselect loaded (fun t => t.status == 0x92B) = true := by decide +kernel

/-! ## The host port and reset (V7, V8; 70_reset_and_hazards.md R283, R284, R287) -/

theorem test_illegal_word :
    stepEnds (offering (.write 0x40 32 0) opened) (fun t => t.status == 0x301 && t.trace == [.ssFall]) = true := by
  decide +kernel

/-- R283: RENDER_FULL written too early is taken as a coordinate. -/
theorem test_early_command :
    stepEnds (offering (.write 0x40 32 0xC0000000) (collecting 2 [0x23])) (fun t =>
      t.status == 0x305 && t.fb == [] && t.frames == []) = true := by decide +kernel

theorem test_status_read :
    stepEnds (offering (.read 0x44 32) opened) (fun t => t.reads == [0x1] && t.status == 0x1) = true := by
  decide +kernel

/-- V8: a reset after 5 SHIFT steps of TRANSMIT 0x0C01 (5 steps of the command come before the first SHIFT: the start,
steps a and b, and LOAD, the reset being counted from the command's own step; log 3). -/
theorem test_reset_cuts_transmit :
    stepEnds (offering (.write 0x40 32 0x10000C01) { start with resets := [10] }) (fun t =>
      t.frames == [.partialOf 5] && t.status == 0x5 && t.drv == [] && t.trace.length == 7) = true := by decide +kernel

theorem test_reset_after_select :
    stepEnds { opened with resets := [0] } (fun t =>
      t.trace == [.ssFall, .ssRise] && t.frames == [.partialOf 0] && t.status == 0x5) = true := by decide +kernel

/-- V8: after FINISH and before step d the whole frame is latched. -/
theorem test_reset_after_finish :
    stepEnds { waited with resets := [0] } (fun t => t.frames == whole [0x0100] && t.drv == [(1, 0)]) = true := by
  decide +kernel

theorem test_withFetchWord_runs_from_reset :
    stepEnds (State.reset.withFetchWord 32 0x10000C01) (fun t => t.frames == whole [0x0C01]) = true := by decide +kernel

/-! ## Witnesses: states and operands that meet the hypotheses of each statement, clause by clause -/

theorem witness_LegalWordEncodesBackToItself : decode 0x80000801 = .ok (.writeRow 8 0x01) := rfl

theorem witness_IllegalWordsAndTheOpcodeTable :
    decode 0xE0000008 = .ok (.renderCols 8) ∧ decode 0x0FFFFFFF = .error .opZero ∧
      (opField 0xF4000000 = 0xF ∧ 4 ≤ (subField 0xF4000000).toNat) ∧ decode 0xF2000001 = .error .reservedBit ∧
      start.cmdst = .idle ∧ start.seq = 0 ∧ start.work = [] := ⟨rfl, rfl, by decide, rfl, rfl, rfl, rfl⟩

theorem witness_ConfigurationIsChecked : ({ start with cfg := { cfg8 with regDecode := 8 } } : State).cfg.wf = false := by
  decide

theorem witness_ResetValues : ∃ s, resetInput waited = resetInput s := ⟨waited, rfl⟩

theorem witness_ResetInputWinsAndReleasesTheLine :
    start.cfg.wf = true ∧ ({ start with resets := [0] } : State).resets.head? = some 0 ∧ start.ssn = true ∧
      waited.ssn = false ∧ waited.cfg.wf = true ∧ waited.rxbits.length = 16 ∧
      opened.ssn = false ∧ opened.cfg.wf = true ∧ opened.rxbits.length ≠ 16 := by decide +kernel

theorem witness_ResetCutsTransmitShort : start.busIdle = true ∧ 0 ≤ 16 ∧ 15 ≤ 16 ∧ 16 ≤ 16 := by decide

theorem witness_CleanEntryAtReset : start.cleanEntry ∧ drawn.cleanEntry := by decide

theorem witness_PortRefusesOtherAccesses :
    (start.cfg.wf = true ∧ start.resets.head? ≠ some 0 ∧ start.cmdst ≠ .exec ∧ start.shifterEnabled = false) ∧
      (loaded.cfg.wf = true ∧ loaded.resets.head? ≠ some 0 ∧ loaded.cmdst ≠ .exec ∧ loaded.shifterEnabled = true ∧
        nextTurn { loaded with sched := [.host] } = .host) ∧
      (offering (.write (start.cfg.cmdBase + 4) 32 7) start).program = [.write (start.cfg.cmdBase + 4) 32 7] ∧
      (offering (.read start.cfg.cmdBase 32) start).program = [.read start.cfg.cmdBase 32] ∧
      (offering (.write 0x40 31 7) start).program = [.write 0x40 31 7] ∧ 31 ≠ 32 ∧
      (offering (.read 0x44 33) start).program = [.read 0x44 33] ∧ 33 ≠ 32 ∧
      (offering (.write 0x41 32 7) start).program = [.write 0x41 32 7] ∧ 0x41 ≠ start.cfg.cmdBase ∧
      0x41 ≠ start.cfg.cmdBase + 4 ∧ (offering (.read 0x45 32) start).program = [.read 0x45 32] ∧
      0x45 ≠ start.cfg.cmdBase ∧ 0x45 ≠ start.cfg.cmdBase + 4 := by decide +kernel

theorem witness_StatusReadHasNoSideEffect :
    start.cfg.wf = true ∧ start.resets = [] ∧ start.cmdst ≠ .exec ∧ start.shifterEnabled = false ∧
      (offering (.read (start.cfg.cmdBase + 4) 32) start).program = [.read (start.cfg.cmdBase + 4) 32] ∧
      (loaded.cfg.wf = true ∧ loaded.resets = [] ∧ loaded.cmdst ≠ .exec ∧ loaded.shifterEnabled = true ∧
        nextTurn { loaded with sched := [.host] } = .host) ∧
      waited.status &&& 0x3 = 0x1 ∧ ¬(loaded.status &&& 0x3 = 0x1) := by decide +kernel

theorem witness_StepRunsTheDecodedCommand :
    (start.cfg.wf = true ∧ start.resets.head? ≠ some 0 ∧ start.cmdst ≠ .exec ∧ start.shifterEnabled = false) ∧
      (loaded.cfg.wf = true ∧ loaded.resets.head? ≠ some 0 ∧ loaded.cmdst ≠ .exec ∧ loaded.shifterEnabled = true ∧
        nextTurn { loaded with sched := [.host] } = .host) ∧
      decodePort (decide (start.cmdst = .collect)) 0xF2000000 = .ok .busWait ∧
      decodePort (decide ((collecting 2 []).cmdst = .collect)) 0x11 = .ok (.translateWord 0x11) ∧
      decodePort (decide (loaded.cmdst = .collect)) 0x11 = .error .opZero ∧
      decodePort (decide (start.cmdst = .collect)) 0xF4000000 = .error .subUndefined ∧
      (offering (.write start.cfg.cmdBase 32 0xF2000000) start).program =
        [.write start.cfg.cmdBase 32 0xF2000000] ∧
      decodeTableWord 32 0xD0000008 = some (.renderRow 8) :=
  ⟨by decide +kernel, by decide +kernel, rfl, rfl, by decide +kernel, rfl, rfl, rfl⟩

theorem step_executing : step executing = .next (afterStep executing) := step_after (by decide +kernel)

theorem witness_HostIsHeldWhileACommandExecutes :
    executing.cmdst = .exec ∧ step executing = .next (afterStep executing) := ⟨rfl, step_executing⟩

theorem witness_BusSelectAssertsTheLine : start.ssn = true ∧ opened.ssn = false ∧ start.busInv := by decide

theorem witness_BusWriteFillsTheTransmitRegister :
    start.ssn = true ∧ (written.ssn = false ∧ written.wr = true) ∧ opened.ssn = false ∧ opened.wr = false := by decide

theorem witness_BusWaitWaitsOutTheShift :
    (opened.resets = [] ∧ opened.bsy = false ∧ opened.txe = true) ∧
      (written.resets = [] ∧ written.busInv ∧ written.linkInv ∧ ¬(written.bsy = false ∧ written.txe = true)) ∧
      (loaded.resets = [] ∧ loaded.busInv ∧ loaded.linkInv ∧ ¬(loaded.bsy = false ∧ loaded.txe = true)) ∧
      (opened.busInv ∧ opened.ssn = false ∧ opened.wr = false ∧ opened.bsy = false) ∧ start.busInv ∧ start.ssn = true :=
  ⟨by decide, by decide +kernel, by decide +kernel, by decide, by decide⟩

theorem witness_BusWaitWaitsOutTheShift_write : exec (.busWrite 0x0100) opened = .next written := exec_after (by decide +kernel)

theorem witness_BusDeselectClosesTheTransaction :
    start.ssn = true ∧ (opened.ssn = false ∧ opened.wr = false) ∧
      (written.ssn = false ∧ written.wr = true ∧ written.txe = false) ∧
      (loaded.ssn = false ∧ loaded.wr = true ∧ loaded.bsy = true) ∧
      waited.linkInv ∧ waited.ssn = false ∧ waited.wr = true ∧ waited.bsy = false ∧ waited.txe = true := by
  decide +kernel

theorem witness_ShifterSteps :
    (written.txe = false ∧ written.bsy = false) ∧ (loaded.ssn = false ∧ loaded.bsy = true ∧ loaded.cnt ≠ 0#5) ∧
      (({ loaded with cnt := 0 } : State).bsy = true ∧ ({ loaded with cnt := 0 } : State).cnt = 0#5) ∧
      start.bsy = false ∧ start.txe = true := by decide +kernel

theorem witness_SixteenShiftsSendTheFrameMsbFirst : loaded.ssn = false ∧ loaded.bsy = true ∧ loaded.cnt = 16#5 := by
  decide +kernel

theorem witness_TransmitSendsOneFrame : start.busIdle = true ∧ start.resets = [] ∧ opened.busIdle = false := by decide

theorem witness_FourPrimitivesEqualTransmit :
    start.busIdle = true ∧ start.faulted = false ∧ start.resets = [] := by decide

theorem witness_InterleavingDoesNotMatterToTheWait :
    loaded.resets = [] ∧
      exec (.translateWord 0x11) { loaded with cmdst := .collect, list := ⟨2, []⟩ } =
        .next (after (.translateWord 0x11) { loaded with cmdst := .collect, list := ⟨2, []⟩ }) :=
  ⟨by decide +kernel, exec_after (by decide +kernel)⟩

theorem witness_DeselectWithoutWaitHasTwoOutcomes : start.cfg.wf = true ∧ start.cleanEntry ∧ start.resets = [] := by
  decide

theorem witness_RegisterWritesSendTheirFrame :
    start.busIdle = true ∧ start.resets = [] ∧ opened.busIdle = false ∧ ∃ a v l b c, Instr.setOpmode true ∈
      [Instr.writeReg a v, .decodeOff, .setIntensity l, .scanLimitAll, .setOpmode b, .setDisplayTest c] :=
  ⟨by decide, by decide, by decide, 0, 0, 0, true, true, by decide⟩

theorem witness_ConfigurationCommandsAreRegisterWrites : 1 ≤ (1#4).toNat ∧ (8#4).toNat ≤ 8 := by decide

theorem witness_WriteRowSendsOneRow :
    opened.busIdle = false ∧ start.busIdle = true ∧ start.resets = [] ∧ ((0#4) = 0 ∨ 9 ≤ (0#4).toNat) ∧
      9 ≤ (9#4).toNat ∧ 9 ≤ (15#4).toNat ∧ 1 ≤ (1#4).toNat ∧ (8#4).toNat ≤ 8 := by decide

theorem witness_MatrixInitRunsTheSequence : opened.busIdle = false ∧ start.busIdle = true ∧ start.resets = [] := by
  decide

theorem witness_MatrixClearSendsEightZeroRows :
    opened.busIdle = false ∧ drawn.busIdle = true ∧ drawn.resets = [] := by decide

theorem witness_CompositeCommandsNeedAnIdleBus :
    opened.busIdle = false ∧ ∃ f a v l on r c, Instr.renderRow 9 ∈ [Instr.transmit f, .writeReg a v, .decodeOff,
      .setIntensity l, .scanLimitAll, .setOpmode on, .setDisplayTest on, .writeRow r v, .matrixInit, .matrixClear,
      .renderFull, .renderRow r, .renderCols c] :=
  ⟨by decide, 0, 0, 0, 0, true, 9, 0, by decide⟩

theorem witness_TranslateListCollectsItsWords :
    (1#8 : Byte) ≠ 0 ∧ (255#8 : Byte) ≠ 0 ∧ (collecting 2 []).cmdst = .collect ∧
      (collecting 2 []).list.words.length + 1 ≠ (collecting 2 []).list.count.toNat := by decide

/-- A data word's coordinate is within 1..8. -/
abbrev validWord (v : Word) : Prop :=
  1 ≤ (v.extractLsb' 4 4).toNat ∧ (v.extractLsb' 4 4).toNat ≤ 8 ∧
    1 ≤ (v.extractLsb' 0 4).toNat ∧ (v.extractLsb' 0 4).toNat ≤ 8

theorem witness_TranslateListExecutesWithItsLastWord :
    ((collecting 2 [0x18]).cmdst = .collect ∧
      (collecting 2 [0x18]).list.words.length + 1 = (collecting 2 [0x18]).list.count.toNat) ∧
      (∃ v ∈ (collecting 2 [0x18]).list.words ++ [0x100], v.extractLsb' 8 24 ≠ 0) ∧
      (∀ u ∈ [(0x01 : Word), 0x91, 0x10, 0x19], (∀ v ∈ [0x18, u], v.extractLsb' 8 24 = 0) ∧
        ∃ v ∈ [0x18, u], ¬validWord v) ∧
      ∀ u ∈ [(0x11 : Word), 0x81, 0x18, 0x88], ∀ v ∈ [0x18, u], v.extractLsb' 8 24 = 0 ∧ validWord v :=
  ⟨⟨rfl, rfl⟩, by simp [collecting], by simp, by simp [validWord]⟩

theorem witness_TranslationIsAUnion :
    pixelsOf [0x11, 0x88] = some [⟨0, 0⟩, ⟨7, 7⟩] ∧ pixelsOf [0x88, 0x11, 0x88] = some [⟨7, 7⟩, ⟨0, 0⟩, ⟨7, 7⟩] ∧
      (∀ v ∈ [(0x11 : Word), 0x88, 0x88, 0x11, 0x88], badDataWord v = false) ∧
      ∀ p : Pixel, p ∈ [Pixel.mk 0 0, ⟨7, 7⟩] ↔ p ∈ [Pixel.mk 7 7, ⟨0, 0⟩, ⟨7, 7⟩] :=
  ⟨rfl, rfl, by simp [badDataWord, dataHighField], fun p => by simp only [List.mem_cons, List.not_mem_nil]; tauto⟩

theorem witness_OnlyTranslateListWritesTheFrameBuffer :
    drawn.resets = [] ∧ exec .renderFull drawn = .next (after .renderFull drawn) ∧
      Instr.renderFull.isDataWord = false := ⟨rfl, exec_after (by decide +kernel), rfl⟩

theorem witness_EarlyCommandIsTakenAsACoordinate :
    decode 0xC0000000 = .ok .renderFull ∧ (collecting 2 [0x23]).cmdst = .collect ∧
      (collecting 2 [0x23]).list.words.length + 1 = (collecting 2 [0x23]).list.count.toNat ∧
      (∃ (v : Word) (i : Instr), v ∈ (collecting 2 [0x23]).list.words ++ [0xC0000000] ∧ decode v = .ok i) ∧
      start.cmdst = .idle ∧ start.seq = 0 ∧ start.work = [] :=
  ⟨rfl, rfl, rfl, ⟨0xC0000000, .renderFull, by simp, rfl⟩, rfl, rfl, rfl⟩

theorem witness_FrameBufferReadAfterWrite : Memory.wf drawn.fb = true ∧ Memory.wf start.fb = true := by decide

theorem witness_FrameBufferFormIsCanonical :
    Memory.wf drawn.fb = true ∧ Memory.wf (drawn.writeRow 0 0).fb = true ∧
      ∀ r : Row, drawn.readRow r = (drawn.writeRow 0 0).readRow r := by decide

theorem witness_RenderFullSendsEveryRow : opened.busIdle = false ∧ drawn.busIdle = true ∧ drawn.resets = [] := by decide

theorem witness_RenderRowSendsOneRow :
    opened.busIdle = false ∧ drawn.busIdle = true ∧ drawn.resets = [] ∧ ((0#4) = 0 ∨ 9 ≤ (0#4).toNat) ∧
      9 ≤ (9#4).toNat ∧ 9 ≤ (15#4).toNat ∧ (1#4).toNat = rowNumber 0 ∧ (8#4).toNat = rowNumber 7 := by decide

theorem witness_RenderColsMasksTheColumnsAbove :
    opened.busIdle = false ∧ drawn.busIdle = true ∧ drawn.resets = [] := by decide

theorem witness_RenderLaws :
    8 ≤ (8#8).toNat ∧ 8 ≤ (255#8).toNat ∧ drawn.busIdle = true ∧ drawn.resets = [] ∧ (0#8).toNat ≤ (7#8).toNat := by
  decide

theorem witness_RenderLaws_next : exec .renderFull drawn = .next (after .renderFull drawn) :=
  exec_after (by decide +kernel)

theorem witness_ErrorsHaveNoOtherEffect :
    start.resets = [] ∧ (after (.renderRow 9) start).cmdst = .idle ∧ (after (.renderRow 9) start).resp ≠ .ok ∧
      (after .busDeselect written).cmdst = .idle ∧ (after .busDeselect written).resp ≠ .ok := by decide +kernel

theorem witness_ErrorsHaveNoOtherEffect_next :
    exec (.renderRow 9) start = .next (after (.renderRow 9) start) ∧
      exec .busDeselect written = .next (after .busDeselect written) :=
  ⟨exec_after (by decide +kernel), exec_after (by decide +kernel)⟩

theorem witness_FaultIsSticky :
    start.resets = [] ∧ (after .busDeselect start).faulted = true ∧ start.faulted = false ∧
      exec .busDeselect start = .next (after .busDeselect start) ∧
      exec .renderFull (after .busDeselect start) = .next (after .renderFull (after .busDeselect start)) :=
  ⟨rfl, by decide, rfl, exec_after (by decide +kernel), exec_after (by decide +kernel)⟩

theorem witness_InitdIsWrittenOnlyByMatrixInit :
    start.resets = [] ∧ exec .matrixClear start = .next (after .matrixClear start) ∧ Instr.matrixClear ≠ .matrixInit ∧
      exec .matrixInit start = .next (after .matrixInit start) :=
  ⟨rfl, exec_after (by decide +kernel), by decide, exec_after (by decide +kernel)⟩

theorem witness_ConfigurationNeverChanges : step executing = .next (afterStep executing) := step_executing

theorem witness_PartialFramesComeOnlyFromReset :
    executing.inv ∧ executing.resets = [] ∧ executing.program.head? ≠ some .reset ∧
      step executing = .next (afterStep executing) := ⟨by decide +kernel, rfl, by decide, step_executing⟩

theorem witness_PartialFramesComeOnlyFromReset_partial :
    ({ executing with frames := [.partialOf 3] } : State).inv ∧
      Latched.partialOf 3 ∈ (afterStep { executing with frames := [.partialOf 3] }).frames := by decide +kernel

theorem witness_CommandIsTheRunOfItsSteps : start.cfg.wf = true := by decide

theorem witness_EveryStepKeepsTheInvariant :
    executing.inv ∧ step executing = .next (afterStep executing) ∧ (collecting 2 [0x23]).inv ∧
      waited.inv := ⟨by decide +kernel, step_executing, by decide, by decide +kernel⟩

theorem witness_EveryStepKeepsTheWireShape :
    executing.inv ∧ executing.wireInv ∧ executing.resets = [] ∧ executing.program.head? ≠ some .reset ∧
      step executing = .next (afterStep executing) := ⟨by decide +kernel, by decide +kernel, rfl, by decide, step_executing⟩

theorem witness_EveryStepKeepsTheReceiverImage :
    executing.inv ∧ executing.receiverInv ∧ step executing = .next (afterStep executing) :=
  ⟨by decide +kernel, by decide +kernel, step_executing⟩

theorem witness_EndedRunStaysAndCollectingIsStuck :
    start.cfg.wf = true ∧ start.resets = [] ∧ start.ended ∧ (collecting 2 [0x23]).stuck ∧
      (collecting 2 [0x23]).shifterEnabled = false := by decide

/-- A list header, a STATUS read and a reset still to come. -/
def planned : State :=
  { start with program := [.write 0x40 32 0xB0000002, .read 0x44 32, .reset], resets := [3, 0], sched := [.shifter] }

theorem witness_EveryRunEndsOrIsStuckCollecting :
    planned.inv ∧ planned.cfg.wf = true ∧ ∀ a ∈ planned.program, ∀ r, portAccess planned.cfg a ≠ .refuse r :=
  ⟨by decide, by decide, by simp [planned, portAccess, cmdAddr, statusAddr, start, cfg8]⟩

theorem witness_SequenceNumberFollowsTheTransactions :
    drawn.cfg.wf = true ∧ drawn.busIdle = true ∧ drawn.resets = [] ∧ (1#4).toNat = rowNumber 0 ∧ (8#4).toNat = rowNumber 7 ∧
      drawn.seq = 0 ∧ 1 ≤ 1 ∧ 23 ≤ 23 := by decide

theorem witness_SequenceNumberFollowsTheTransactions_clauses :
    ([cfg8.regDecode ++ cfg8.valDecodeOff, cfg8.regIntensity ++ intensityPayload cfg8 cfg8.initIntensity,
        cfg8.regScanLimit ++ cfg8.valScanAll8, cfg8.regShutdown ++ cfg8.valNormal,
        cfg8.regDisplayTest ++ cfg8.valTestOff,
        0x0100, 0x0200, 0x0300, 0x0400, 0x0500, 0x0600, 0x0700, 0x0800][12]? = some (0x0800 : Frame)) ∧
      [(0x0100 : Frame), 0x0200, 0x0300, 0x0400, 0x0500, 0x0600, 0x0700, 0x0800][0]? = some 0x0100 ∧
      (∃ (mask : Byte) (row : Row), sendRows 0xFF = sendRows mask ∧ 7 = row.val ∧ 8 = rowNumber row ∧
        (0x0800 : Frame) = BitVec.ofNat 8 (rowNumber row) ++ (drawn.readRow row &&& mask)) ∧
      ∃ row : Row, renderRowSteps 4 = renderRowSteps row ∧
        (0x0501 : Frame) = BitVec.ofNat 8 (rowNumber row) ++ drawn.readRow row :=
  ⟨rfl, rfl, ⟨0xFF, 7, rfl, rfl, rfl, by decide⟩, ⟨4, rfl, by decide⟩⟩

/-- R168, R221 with log 21: SEQ in the thirteenth transaction of MATRIX_INIT, and in the fourth of RENDER_FULL. -/
theorem test_seq_within_a_command :
    (drain (23 * 12 + 9) { start with cmdst := .exec, work := matrixInitSteps cfg8 ++ [.respond .ok] }).seq = 13 ∧
      (drain (23 * 3 + 1) { drawn with cmdst := .exec, work := sendRows 0xFF ++ [.respond .ok] }).seq = 4 := by
  decide +kernel

end Sys2Proof.Tests
end

section
/-! PROOFS. The family 00_scope.md: the configuration record and its check (R6, R7), the column masks (R12), and
what every command and every step leave of the configuration record (R274). -/

namespace Sys2Proof.Machine

/-! ## The masks (00_scope.md R12) -/

theorem colmask_of_eight_le {c : Byte} (h : 8 ≤ c.toNat) : colmask c = 0xFF := if_pos h

theorem colmask_of_lt_eight {c : Byte} (h : c.toNat < 8) : colmask c = (1#8 <<< c.toNat) - 1 := if_neg (by omega)

/-- Below a power of two every bit is 1, from it on every bit is 0. -/
theorem shifted_one_sub_one_getLsbD :
    ∀ n k : Fin 8, ((1#8 <<< n.val) - 1).getLsbD k.val = decide (k.val < n.val) := by decide

theorem colmask_getLsbD (c : Byte) {k : Nat} (hk : k < 8) : (colmask c).getLsbD k = decide (k < c.toNat) := by
  by_cases hc : c.toNat < 8
  · rw [colmask_of_lt_eight hc]
    exact shifted_one_sub_one_getLsbD ⟨c.toNat, hc⟩ ⟨k, hk⟩
  · have hone : (0xFF : Byte).getLsbD k = true := by interval_cases k <;> rfl
    rw [colmask_of_eight_le (by omega), hone, decide_eq_true (by omega)]

/-- Settles O43, from the bits of `colmask` in its two cases and the table of `bitmask`. -/
theorem columnMaskAndBitmask : Obligations.ColumnMaskAndBitmask := by
  refine ⟨fun c k hk => colmask_getLsbD c hk, fun x k hk => ?_⟩
  have hbit := bitmask_getLsbD x ⟨k, hk⟩
  simpa [Fin.ext_iff] using hbit

/-! ## The check of the configuration record (00_scope.md R7) -/

/-- `Config.wf`'s test of one register address: it is none of the row addresses 1..8. -/
theorem not_rowAddress_iff (a : Byte) :
    (a.toNat < 1 ∨ 8 < a.toNat) ↔ ∀ r : Nat, 1 ≤ r → r ≤ 8 → a ≠ BitVec.ofNat 8 r := by
  constructor
  · rintro h r hlo hhi rfl
    rw [BitVec.toNat_ofNat] at h
    omega
  · intro h
    by_contra hrow
    exact h a.toNat (by omega) (by omega) (by simp)

theorem config_wf_iff (c : Config) :
    c.wf = true ↔
      (∀ a ∈ c.controlRegs, ∀ r : Nat, 1 ≤ r → r ≤ 8 → a ≠ BitVec.ofNat 8 r) ∧ c.controlRegs.Nodup := by
  simp only [Config.wf, Bool.and_eq_true, List.all_eq_true, decide_eq_true_eq, not_rowAddress_iff]

theorem step_of_not_wf {s : State} (h : s.cfg.wf = false) : step s = .refused .badConfiguration := by
  simp [step, nextStep, h]

/-- Settles O6: the check is `config_wf_iff` with the five registers written out. -/
theorem configurationIsChecked : Obligations.ConfigurationIsChecked := by
  refine ⟨fun c => ?_, fun c => by omega, fun s => step_of_not_wf⟩
  refine (config_wf_iff c).trans (and_congr Iff.rfl ?_)
  simp [Config.controlRegs, and_assoc]

/-! ## What a command can do, whether or not a reset is on its way -/

/-- Everything a command can do to the state, also where a reset cuts it short: an error; statements run to their end or
to a reset; an effect and its response in one step; or a list begun, continued or translated. -/
inductive CommandEffect (s : State) : State → Prop where
  | error (c : Resp) : CommandEffect s (raise c s)
  | ran (ops : List MicroOp) : CommandEffect s (runCommand ops s)
  | nothing : CommandEffect s (respond .ok s)
  | selected : CommandEffect s (respond .ok (selectLine s))
  | written (f : Frame) : CommandEffect s (respond .ok (writeTxdr f s))
  | deselected : CommandEffect s (respond .ok (deselectLine s))
  | began (count : Byte) : CommandEffect s { s with list := ⟨count, []⟩, cmdst := .collect }
  | collected (ws : List Word) : CommandEffect s { s with list := ⟨s.list.count, ws⟩ }
  | translated (ws : List Word) : CommandEffect s (translate ws { s with cmdst := .exec, list := .empty })

theorem composite_effect (ops : List MicroOp) (s : State) : CommandEffect s (composite ops s) := by
  unfold composite
  split
  · exact .ran _
  · exact .error _

/-- A command with a row operand: the bus, then the operand, then its statements (60_exceptions.md R247). -/
theorem rowCommand_effect (row : BitVec 4) (ops : Row → List MicroOp) (s : State) :
    CommandEffect s (if s.busIdle then
      match rowOperand row with
      | none => raise .invalidRow s
      | some r => composite (ops r) s
    else raise .busNotIdle s) := by
  split
  · cases rowOperand row with
    | none => exact .error _
    | some r => exact composite_effect _ s
  · exact .error _

theorem exec_effect (i : Instr) (s : State) : ∃ t, exec i s = .next t ∧ CommandEffect s t := by
  cases i with
  | transmit | writeReg | decodeOff | setIntensity | scanLimitAll | setOpmode | setDisplayTest | matrixInit
  | matrixClear | renderFull | renderCols => exact ⟨_, rfl, composite_effect _ s⟩
  | writeRow row value => exact ⟨_, rfl, rowCommand_effect row (fun r => frameSteps (mkFrame (rowAddr r) value)) s⟩
  | renderRow row => exact ⟨_, rfl, rowCommand_effect row renderRowSteps s⟩
  | translateList count =>
    refine ⟨_, rfl, ?_⟩
    split_ifs
    · exact .nothing
    · exact .began count
  | translateWord word =>
    refine ⟨_, rfl, ?_⟩
    dsimp only
    split_ifs
    · exact .translated _
    · exact .collected _
    · exact .error _
  | busSelect =>
    refine ⟨_, rfl, ?_⟩
    split_ifs
    · exact .selected
    · exact .error _
  | busWrite f =>
    refine ⟨_, rfl, ?_⟩
    split_ifs
    · exact .error _
    · exact .error _
    · exact .written f
  | busWait => exact ⟨_, rfl, .ran _⟩
  | busDeselect =>
    refine ⟨_, rfl, ?_⟩
    split_ifs
    · exact .error _
    · exact .error _
    · exact .error _
    · exact .deselected

/-! ## The configuration record stays (00_scope.md R6; 70_reset_and_hazards.md R274) -/

@[simp] theorem shifterStep_cfg (s : State) : (shifterStep s).cfg = s.cfg := by
  obtain ⟨-, -, h⟩ | ⟨-, -, h⟩ | ⟨-, -, h⟩ | ⟨-, -, h⟩ := shifterStep_cases s <;> simp [h]

@[simp] theorem blockStep_cfg (s : State) : (blockStep s).cfg = s.cfg := by
  obtain ⟨-, h⟩ | ⟨q, src, rest, -, h⟩ | ⟨rest, -, h⟩ | ⟨f, rest, -, h⟩ | ⟨rest, -, -, h⟩ | ⟨rest, -, -, h⟩ |
    ⟨rest, -, h⟩ | ⟨rest, -, h⟩ | ⟨c, rest, -, h⟩ := blockStep_cases s <;> simp [h]

@[simp] theorem microStep_cfg (s : State) : (microStep s).cfg = s.cfg := by
  unfold microStep
  split
  · exact shifterStep_cfg s
  · exact blockStep_cfg s

@[simp] theorem resetInput_cfg (s : State) : (resetInput s).cfg = s.cfg := by
  obtain ⟨-, -, hcfg, -⟩ := resetInput_keeps s
  exact hcfg

@[simp] theorem takeReset_cfg (s : State) : (takeReset s).cfg = s.cfg := resetInput_cfg _

@[simp] theorem useTurn_cfg (s : State) : (useTurn s).cfg = s.cfg := by
  unfold useTurn
  split <;> rfl

theorem advance_cfg (s : State) : (advance s).cfg = s.cfg := by
  unfold advance
  split
  · exact takeReset_cfg s
  · exact microStep_cfg (tick s)

theorem drain_cfg (n : Nat) (s : State) : (drain n s).cfg = s.cfg := by
  induction n generalizing s with
  | zero => rfl
  | succ n ih =>
    rw [drain]
    split
    · exact (ih _).trans (advance_cfg s)
    · rfl

@[simp] theorem runCommand_cfg (ops : List MicroOp) (s : State) : (runCommand ops s).cfg = s.cfg := drain_cfg _ _

@[simp] theorem translate_cfg (ws : List Word) (s : State) : (translate ws s).cfg = s.cfg := by
  obtain h | h | ⟨ps, -, h⟩ := translate_cases ws s
  · rw [h, raise_cfg]
  · rw [h, raise_cfg]
  · rw [h, respond_cfg, setPixels_frame]

theorem CommandEffect.cfg_eq {s t : State} (h : CommandEffect s t) : t.cfg = s.cfg := by
  cases h <;> simp

theorem exec_cfg {i : Instr} {s t : State} (h : exec i s = .next t) : t.cfg = s.cfg := by
  obtain ⟨u, hu, heffect⟩ := exec_effect i s
  obtain rfl : u = t := by simpa [hu] using h
  exact heffect.cfg_eq

theorem takeWord_cfg {w : Word} {s t : State} (h : takeWord w s = .next t) : t.cfg = s.cfg := by
  unfold takeWord at h
  split at h
  · exact exec_cfg h
  · cases h
    exact raise_cfg _ _

theorem hostMove_cfg {a : HostAction} {s t : State} (h : hostMove a s = .next t) : t.cfg = s.cfg := by
  unfold hostMove at h
  split at h
  · exact takeWord_cfg h
  · cases h
    exact readStatus_cfg s
  · cases h
    exact resetInput_cfg s
  · cases h

/-- Settles O49: each kind of step of `step_cases` keeps the record; the host's action is the case with commands in it. -/
theorem configurationNeverChanges : Obligations.ConfigurationNeverChanges := by
  intro s t h
  obtain ⟨-, ⟨-, rfl⟩ | ⟨-, -, rfl⟩ | ⟨-, -, -, ⟨-, rfl⟩ | rfl⟩ | ⟨-, -, a, rest, -, hhost | hhost⟩ |
    ⟨-, -, -, -, rfl⟩⟩ := step_cases h
  · exact takeReset_cfg s
  · exact microStep_cfg (tick s)
  · exact shifterStep_cfg (tick s)
  · exact (shifterStep_cfg _).trans (useTurn_cfg (tick s))
  · exact (hostMove_cfg hhost).trans (tick_cfg s)
  · exact (hostMove_cfg hhost).trans (useTurn_cfg (tick s))
  · exact tick_cfg s

end Sys2Proof.Machine
end

section
/-! PROOFS. The family 10_state.md: STATUS and its access (R30, R31), INITD (R27), and the invariants of the hidden
state (R36), which hold at reset and which every step keeps. -/

namespace Sys2Proof.Machine

/-! ## STATUS and the port (10_state.md R30, R31) -/

/-- The six flags of STATUS, bits 0 to 5. -/
theorem status_flags (s : State) :
    s.status.getLsbD 0 = s.txe ∧ s.status.getLsbD 1 = s.bsy ∧ s.status.getLsbD 2 = s.ssn ∧
      s.status.getLsbD 3 = s.wr ∧ s.status.getLsbD 4 = s.initd ∧ s.status.getLsbD 5 = s.faulted := by
  simp only [State.status, BitVec.getLsbD_setWidth, BitVec.getLsbD_append, BitVec.getLsbD_ofBool]
  simp

/-- Bits 6 and 7 of STATUS are reserved. -/
theorem status_reserved (s : State) : s.status.getLsbD 6 = false ∧ s.status.getLsbD 7 = false := by
  simp only [State.status, BitVec.getLsbD_setWidth, BitVec.getLsbD_append, BitVec.getLsbD_ofBool]
  simp

/-- From bit 8 on STATUS is the response code, and zeros above it. -/
theorem status_getLsbD_add_eight (s : State) {k : Nat} (hk : k < 24) :
    s.status.getLsbD (8 + k) = s.resp.code.getLsbD k := by
  simp only [State.status, BitVec.getLsbD_setWidth, BitVec.getLsbD_append, BitVec.getLsbD_ofBool]
  rw [decide_eq_true (by omega), Bool.true_and]
  iterate 7 rw [if_neg (by omega)]
  congr 1
  omega

/-- Settles O7: the flags, the reserved bits, the response code, and the port's two answers at STATUS. -/
theorem statusRegisterLayout : Obligations.StatusRegisterLayout := by
  refine ⟨fun s => ?_, by decide, by decide, fun c w => ⟨?_, ?_⟩⟩
  · obtain ⟨h0, h1, h2, h3, h4, h5⟩ := status_flags s
    refine ⟨h0, h1, h2, h3, h4, h5, ?_, ?_, ?_⟩
    · apply BitVec.eq_of_getLsbD_eq
      intro k hk
      obtain ⟨h6, h7⟩ := status_reserved s
      interval_cases k
      · simpa using h6
      · simpa using h7
    · apply BitVec.eq_of_getLsbD_eq
      intro k hk
      rw [BitVec.getLsbD_extractLsb', decide_eq_true hk, Bool.true_and, status_getLsbD_add_eight s (by omega)]
    · apply BitVec.eq_of_getLsbD_eq
      intro k hk
      rw [BitVec.getLsbD_extractLsb', decide_eq_true hk, Bool.true_and, show 12 + k = 8 + (4 + k) by omega,
        status_getLsbD_add_eight s (by omega), BitVec.getLsbD_of_ge _ _ (by omega)]
      exact BitVec.getLsbD_zero.symm
  · simp [portAccess, cmdAddr, statusAddr]
  · simp [portAccess, cmdAddr, statusAddr]

/-- Where it is the host's move the step is its next action, with the turn used up if the shifter could also move. -/
theorem step_of_hostTurn {s : State} {a : HostAction} {rest : List HostAction} (hwf : s.cfg.wf = true)
    (hreset : s.resets.head? ≠ some 0) (hcmd : s.cmdst ≠ .exec)
    (hturn : s.shifterEnabled = false ∨ nextTurn s = .host) (hprog : s.program = a :: rest) :
    step s = hostMove a { (if s.shifterEnabled then useTurn (tick s) else tick s) with program := rest } := by
  have hen : (tick s).shifterEnabled = s.shifterEnabled := rfl
  have hnext : nextTurn (tick s) = nextTurn s := rfl
  simp only [step, nextStep, hwf, if_true, if_neg hreset, if_neg hcmd, tick_cmdst, freeMove, tick_program, hprog, hen, hnext]
  cases hs : s.shifterEnabled with
  | false => rfl
  | true =>
    have hhost : nextTurn s = .host := hturn.resolve_left (by simp [hs])
    simp only [hhost, if_true]

/-- Where it is the host's move, an access that the port refuses ends the run under the refusal's name (log 8). -/
theorem step_of_refusedAccess {s : State} {a : HostAction} {rest : List HostAction} {r : Refusal} (hwf : s.cfg.wf = true)
    (hreset : s.resets.head? ≠ some 0) (hcmd : s.cmdst ≠ .exec)
    (hturn : s.shifterEnabled = false ∨ nextTurn s = .host) (hprog : s.program = a :: rest)
    (hrefuse : portAccess s.cfg a = .refuse r) : step s = .refused r := by
  rw [step_of_hostTurn hwf hreset hcmd hturn hprog, hostMove]
  have hcfg : (if s.shifterEnabled then useTurn (tick s) else tick s).cfg = s.cfg := by
    split <;> simp
  simp only [hcfg, hrefuse]

/-- Settles O12: the step is the port's answer, and each of the six accesses is one that `portAccess` refuses. -/
theorem portRefusesOtherAccesses : Obligations.PortRefusesOtherAccesses := by
  intro s rest hwf hreset hcmd hturn
  have refused {a r} (hprog : s.program = a :: rest) (hrefuse : portAccess s.cfg a = .refuse r) : step s = .refused r :=
    step_of_refusedAccess hwf hreset hcmd hturn hprog hrefuse
  refine ⟨fun w hprog => refused hprog ?_, fun hprog => refused hprog ?_, fun a n w hn hprog => refused hprog ?_,
    fun a n hn hprog => refused hprog ?_, fun a w hc hs hprog => refused hprog ?_, fun a hc hs hprog => refused hprog ?_⟩
  · simp [portAccess, cmdAddr, statusAddr]
  · simp [portAccess, cmdAddr]
  · simp [portAccess, hn]
  · simp [portAccess, hn]
  · simp [portAccess, cmdAddr, statusAddr, hc, hs]
  · simp [portAccess, cmdAddr, statusAddr, hc, hs]

/-! ## R36 under the operations on the line (40_transaction.md R120 to R124) -/

/-- `bus_idle()` field by field. -/
theorem busIdle_iff {s : State} :
    s.busIdle = true ↔ s.ssn = true ∧ s.wr = false ∧ s.bsy = false ∧ s.txe = true := by
  simp [State.busIdle, and_assoc]

theorem shiftDone_iff {s : State} : s.shiftDone = true ↔ s.bsy = false ∧ s.txe = true := by
  simp [State.shiftDone]

/-- The part of the invariant that speaks of the line, the shifter and the byte stores, not of the command. -/
structure LineInv (s : State) : Prop where
  bus : s.busInv
  link : s.linkInv
  memory : s.memoryInv

/-- SS_FALL opens a transaction with nothing sent. -/
theorem selectLine_lineInv {s : State} (h : LineInv s) (hssn : s.ssn = true) : LineInv (selectLine s) := by
  obtain ⟨⟨hhigh, -⟩, ⟨-, -, hshr⟩, hmem⟩ := h
  obtain ⟨hwr, hbsy, htxe, hcnt⟩ := hhigh hssn
  refine ⟨?_, ?_, hmem⟩
  · simp [State.busInv, hwr, hbsy, htxe, hcnt]
  · simp [State.linkInv, State.sentBits, hwr, hbsy, hshr hbsy]

/-- A frame written where none has been written yet waits for LOAD, with nothing sent. -/
theorem writeTxdr_lineInv {s : State} (h : LineInv s) (hssn : s.ssn = false) (hwr : s.wr = false) (f : Frame) :
    LineInv (writeTxdr f s) := by
  obtain ⟨⟨-, -, hbusy, hstill⟩, ⟨hrx, -, hshr⟩, hmem⟩ := h
  have hbsy : s.bsy = false := by
    by_contra hb
    obtain ⟨-, hwr', -⟩ := hbusy (by simpa using hb)
    simp [hwr] at hwr'
  have hempty : s.rxbits = [] := by simpa [State.sentBits, hwr] using hrx hssn
  refine ⟨?_, ?_, hmem⟩
  · simp [State.busInv, hssn, hbsy, hstill hbsy]
  · simp [State.linkInv, State.sentBits, hbsy, hempty, hshr hbsy]

theorem deselectLine_drvWf {s : State} (h : Memory.drvWf s.drv = true) : Memory.drvWf (deselectLine s).drv = true := by
  rw [deselectLine_drv]
  split
  · exact Memory.drvWf_put h _ _
  · exact Memory.drvWf_nil

/-- SS_RISE after a finished shift leaves the bus idle. -/
theorem deselectLine_lineInv {s : State} (h : LineInv s) (hdone : s.shiftDone = true) : LineInv (deselectLine s) := by
  obtain ⟨⟨-, -, -, hstill⟩, ⟨-, -, hshr⟩, hfb, hdrv⟩ := h
  obtain ⟨hbsy, htxe⟩ := shiftDone_iff.mp hdone
  refine ⟨?_, ?_, by rwa [deselectLine_fb], deselectLine_drvWf hdrv⟩
  · simp [State.busInv, hbsy, htxe, hstill hbsy]
  · simp [State.linkInv, hbsy, hshr hbsy]

/-- The shifter's steps leave the line, WR, both byte stores and the command alone. -/
theorem shifterStep_frame (s : State) :
    (shifterStep s).ssn = s.ssn ∧ (shifterStep s).wr = s.wr ∧ (shifterStep s).fb = s.fb ∧ (shifterStep s).drv = s.drv ∧
      (shifterStep s).seq = s.seq ∧ (shifterStep s).list = s.list := by
  obtain ⟨-, -, h⟩ | ⟨-, -, h⟩ | ⟨-, -, h⟩ | ⟨-, -, h⟩ := shifterStep_cases s <;> simp [h]

theorem shifterStep_lineInv {s : State} (h : LineInv s) : LineInv (shifterStep s) := by
  obtain ⟨-, -, hfb, hdrv, -⟩ := shifterStep_frame s
  refine ⟨shifterStep_busInv h.bus, shifterStep_linkInv h.bus h.link, ?_⟩
  rw [State.memoryInv, hfb, hdrv]
  exact h.memory

theorem setPixels_lineInv {s : State} (h : LineInv s) (ps : List Pixel) : LineInv (ps.foldl setPixel s) := by
  have hfb := setPixels_wf ps h.memory.1
  rw [setPixels_frame]
  exact ⟨h.bus, h.link, hfb, h.memory.2⟩

/-! ## A reset meets the invariants (70_reset_and_hazards.md R270) -/

/-- Whatever the block held before, its reset values satisfy every clause; only DRV is kept. -/
theorem clearBlock_inv {s : State} (hdrv : Memory.drvWf s.drv = true) : (clearBlock s).inv := by
  refine ⟨?_, ?_, ?_, Memory.wf_nil, hdrv⟩
  · simp [State.busInv]
  · simp [State.linkInv]
  · simp [State.commandInv]

theorem releaseLine_drvWf {s : State} (h : Memory.drvWf s.drv = true) : Memory.drvWf (releaseLine s).drv = true := by
  cases hssn : s.ssn
  · rw [releaseLine_low hssn]
    dsimp only
    split
    · exact Memory.drvWf_put h _ _
    · exact Memory.drvWf_nil
  · rwa [releaseLine_high hssn]

theorem resetInput_inv {s : State} (h : s.inv) : (resetInput s).inv := by
  obtain ⟨-, -, -, -, hdrv⟩ := h
  exact clearBlock_inv (releaseLine_drvWf hdrv)

/-- Settles O53: the reset state is one that `clearBlock` leaves, and its trace is empty. -/
theorem resetMeetsTheInvariants : Obligations.ResetMeetsTheInvariants :=
  ⟨clearBlock_inv (s := State.reset) Memory.drvWf_nil, rfl, rfl⟩

/-! ## Where a command stands, by CMDST -/

/-- An executing command that goes on with statements that fit the bus. -/
theorem inv_of_exec {s : State} (hline : LineInv s) (hcmd : s.cmdst = .exec) (hlist : s.list = .empty) {q : Nat}
    (hq : q ≤ 13) {work : List MicroOp} (hfits : workFits s work = true) :
    ({ s with seq := q, work := work } : State).inv :=
  ⟨hline.bus, hline.link, ⟨hq, fun h => absurd hcmd h, fun _ => hfits, fun h => by simp [hcmd] at h, fun _ => hlist⟩,
    hline.memory⟩

theorem inv_line {s : State} (h : s.inv) : LineInv s := by
  obtain ⟨hbus, hlink, -, hmem⟩ := h
  exact ⟨hbus, hlink, hmem⟩

theorem inv_command {s : State} (h : s.inv) : s.commandInv := by
  obtain ⟨-, -, hcommand, -⟩ := h
  exact hcommand

theorem inv_list {s : State} (h : s.inv) (hcmd : s.cmdst ≠ .collect) : s.list = .empty := by
  obtain ⟨-, -, -, -, hlist⟩ := inv_command h
  exact hlist hcmd

/-- While no command executes SEQ is 0 and nothing of a command is left (10_state.md R21). -/
theorem inv_rest {s : State} (h : s.inv) (hcmd : s.cmdst ≠ .exec) : s.seq = 0 ∧ s.work = [] := by
  obtain ⟨-, hrest, -⟩ := inv_command h
  exact hrest hcmd

/-- A response ends the command, whatever was left of it. -/
theorem respond_inv {s : State} (h : LineInv s) (hlist : s.list = .empty) (c : Resp) : (respond c s).inv := by
  refine ⟨h.bus, h.link, ?_, h.memory⟩
  simp [State.commandInv, hlist]

theorem raise_inv {s : State} (h : LineInv s) (hlist : s.list = .empty) (c : Resp) : (raise c s).inv :=
  respond_inv (s := { s with faulted := s.faulted || c.isProtocolFault }) ⟨h.bus, h.link, h.memory⟩ hlist c

/-! ## What is left of an executing command (log 10) -/

/-- Everything an executing command can still have to do, and where the bus then is. -/
theorem workFits_cases {s : State} {work : List MicroOp} (h : workFits s work = true) :
    (∃ f rest, work = .select :: .write f :: .wait :: .deselect :: rest ∧ s.busIdle = true ∧ betweenTxns rest = true) ∨
    (∃ f rest, work = .write f :: .wait :: .deselect :: rest ∧ s.ssn = false ∧ s.wr = false ∧ betweenTxns rest = true) ∨
    (∃ rest, work = .wait :: .deselect :: rest ∧ s.ssn = false ∧ s.wr = true ∧ betweenTxns rest = true) ∨
    (∃ rest, work = .deselect :: rest ∧ s.ssn = false ∧ s.wr = true ∧ s.shiftDone = true ∧ betweenTxns rest = true) ∨
    (∃ c, work = [.wait, .respond c]) ∨
    (∃ c, work = [.respond c] ∧ s.shiftDone = true) ∨
    (s.busIdle = true ∧ betweenTxns work = true) := by
  unfold workFits at h
  split at h <;> simp_all

/-- Statements between transactions: the next transaction, INITD, or the response. -/
theorem betweenTxns_cases {work : List MicroOp} (h : betweenTxns work = true) :
    (∃ seq src rest, work = .start seq src :: rest ∧ seq ≤ 13 ∧ betweenTxns rest = true) ∨
    (∃ rest, work = .setInit :: rest ∧ betweenTxns rest = true) ∨
    ∃ c, work = [.respond c] := by
  unfold betweenTxns at h
  split at h <;> simp_all

theorem workFits_of_between {s : State} {work : List MicroOp} (hidle : s.busIdle = true) (h : betweenTxns work = true) :
    workFits s work = true := by
  obtain ⟨seq, src, rest, rfl, -, -⟩ | ⟨rest, rfl, -⟩ | ⟨c, rfl⟩ := betweenTxns_cases h
  · simp [workFits, hidle, h]
  · simp [workFits, hidle, h]
  · obtain ⟨-, -, hbsy, htxe⟩ := busIdle_iff.mp hidle
    simp [workFits, shiftDone_iff, hbsy, htxe]

/-- A step of the shifter leaves SSN and WR alone, and where one is enabled no clause that asks for an idle bus or a
finished shift holds. -/
theorem workFits_shifterStep {s : State} {work : List MicroOp} (hen : s.shifterEnabled = true)
    (h : workFits s work = true) : workFits (shifterStep s) work = true := by
  have hdone : s.shiftDone = false := by simpa [shifterEnabled_eq] using hen
  have hidle : s.busIdle = false := by
    by_contra hi
    obtain ⟨-, -, hbsy, htxe⟩ := busIdle_iff.mp (by simpa using hi)
    simp [State.shiftDone, hbsy, htxe] at hdone
  obtain ⟨hssn, hwr, -⟩ := shifterStep_frame s
  obtain ⟨f, rest, -, hi, -⟩ | ⟨f, rest, rfl, h1, h2, hb⟩ | ⟨rest, rfl, h1, h2, hb⟩ | ⟨rest, -, -, -, hd, -⟩ | ⟨c, rfl⟩ |
    ⟨c, -, hd⟩ | ⟨hi, -⟩ := workFits_cases h
  · simp [hidle] at hi
  · simp [workFits, hssn, hwr, h1, h2, hb]
  · simp [workFits, hssn, hwr, h1, h2, hb]
  · simp [hdone] at hd
  · rfl
  · simp [hdone] at hd
  · simp [hidle] at hi

/-! ## The small steps of an executing command -/

theorem shifterStep_inv {s : State} (h : s.inv) (hen : s.shifterEnabled = true) : (shifterStep s).inv := by
  obtain ⟨hbus, hlink, hcommand, hmem⟩ := h
  obtain ⟨hcmd, -, hwork⟩ := shifterStep_keeps s
  obtain ⟨-, -, -, -, hseq, hlist⟩ := shifterStep_frame s
  have hline := shifterStep_lineInv ⟨hbus, hlink, hmem⟩
  refine ⟨hline.bus, hline.link, ?_, hline.memory⟩
  rw [State.commandInv, hcmd, hwork, hseq, hlist]
  obtain ⟨h1, h2, hfits, h4, h5⟩ := hcommand
  exact ⟨h1, h2, fun he => workFits_shifterStep hen (hfits he), h4, h5⟩

/-- The next statement of an executing command. -/
theorem blockStep_inv {s : State} (h : s.inv) (hexec : s.cmdst = .exec) : (blockStep s).inv := by
  have hline := inv_line h
  have hlist := inv_list h (by simp [hexec])
  obtain ⟨hseq, -, hfits, -⟩ := inv_command h
  obtain ⟨f, rest, hw, hidle, hb⟩ | ⟨f, rest, hw, hssn, hwr, hb⟩ | ⟨rest, hw, hssn, hwr, hb⟩ |
    ⟨rest, hw, hssn, hwr, hdone, hb⟩ | ⟨c, hw⟩ | ⟨c, hw, hdone⟩ | ⟨hidle, hb⟩ := workFits_cases (hfits hexec)
  · obtain ⟨hssn, hwr, -⟩ := busIdle_iff.mp hidle
    simp only [blockStep, hw]
    exact inv_of_exec (selectLine_lineInv hline hssn) hexec hlist hseq (by simp [workFits, hwr, hb])
  · simp only [blockStep, hw]
    exact inv_of_exec (writeTxdr_lineInv hline hssn hwr f) hexec hlist hseq (by simp [workFits, hssn, hb])
  · simp only [blockStep, hw]
    split
    · next hdone => exact inv_of_exec hline hexec hlist hseq (by simp [workFits, hssn, hwr, hb, hdone])
    · exact h
  · obtain ⟨hbsy, htxe⟩ := shiftDone_iff.mp hdone
    have hidle : (deselectLine s).busIdle = true := by simp [busIdle_iff, hbsy, htxe]
    simp only [blockStep, hw]
    exact inv_of_exec (deselectLine_lineInv hline hdone) (by simpa using hexec) (by simpa using hlist)
      (by simpa using hseq) (workFits_of_between hidle hb)
  · simp only [blockStep, hw]
    split
    · next hdone => exact inv_of_exec hline hexec hlist hseq hdone
    · exact h
  · simp only [blockStep, hw]
    exact respond_inv hline hlist c
  · obtain ⟨seq, src, rest, hw, hle, hb⟩ | ⟨rest, hw, hb⟩ | ⟨c, hw⟩ := betweenTxns_cases hb
    · simp only [blockStep, hw]
      exact inv_of_exec hline hexec hlist hle (by simp [workFits, txnSteps, hidle, hb])
    · simp only [blockStep, hw]
      exact inv_of_exec (s := { s with initd := true }) ⟨hline.bus, hline.link, hline.memory⟩ hexec hlist hseq
        (workFits_of_between (s := { s with initd := true }) hidle hb)
    · simp only [blockStep, hw]
      exact respond_inv hline hlist c

theorem microStep_inv {s : State} (h : s.inv) (hexec : s.cmdst = .exec) : (microStep s).inv := by
  unfold microStep
  split
  · next hen => exact shifterStep_inv h hen
  · exact blockStep_inv h hexec

/-- The reset input wins over the command's small steps (70_reset_and_hazards.md R272). -/
theorem advance_inv {s : State} (h : s.inv) (hexec : s.cmdst = .exec) : (advance s).inv := by
  unfold advance
  split
  · exact resetInput_inv h
  · exact microStep_inv h hexec

/-- What every small step of an executing command keeps, the whole of its run keeps, also where a reset cuts it short. -/
theorem drain_keeps {p : State → Prop} (hadvance : ∀ s, p s → s.cmdst = .exec → p (advance s)) (n : Nat) {s : State}
    (h : p s) : p (drain n s) := by
  induction n generalizing s with
  | zero => exact h
  | succ n ih =>
    rw [drain]
    split
    · next hexec => exact ih (hadvance s h hexec)
    · exact h

/-! ## A command as a whole -/

/-- A command whose statements fit the bus keeps the invariant to its end. -/
theorem runCommand_inv {s : State} (h : s.inv) (hlist : s.list = .empty) {ops : List MicroOp}
    (hfits : workFits s ops = true) : (runCommand ops s).inv := by
  have hline := inv_line h
  obtain ⟨-, -, ⟨hseq, -⟩, -⟩ := h
  exact drain_keeps (p := State.inv) (fun _ => advance_inv) _
    (inv_of_exec (s := { s with cmdst := .exec }) ⟨hline.bus, hline.link, hline.memory⟩ rfl hlist hseq hfits)

theorem composite_inv {s : State} (h : s.inv) (hlist : s.list = .empty) {ops : List MicroOp}
    (hops : betweenTxns (ops ++ [.respond .ok]) = true) : (composite ops s).inv := by
  unfold composite
  split
  · next hidle => exact runCommand_inv h hlist (workFits_of_between hidle hops)
  · exact raise_inv (inv_line h) hlist _

/-- A command with a row operand: the bus, then the operand, then its statements (60_exceptions.md R247). -/
def rowCommand (row : BitVec 4) (ops : Row → List MicroOp) (s : State) : State :=
  if s.busIdle then
    match rowOperand row with
    | none => raise .invalidRow s
    | some r => composite (ops r) s
  else raise .busNotIdle s

theorem exec_writeRow (row : BitVec 4) (value : Byte) (s : State) :
    exec (.writeRow row value) s = .next (rowCommand row (fun r => frameSteps (mkFrame (rowAddr r) value)) s) := rfl

theorem exec_renderRow (row : BitVec 4) (s : State) :
    exec (.renderRow row) s = .next (rowCommand row renderRowSteps s) := rfl

theorem rowCommand_inv {s : State} (h : s.inv) (hlist : s.list = .empty) (row : BitVec 4) {ops : Row → List MicroOp}
    (hops : ∀ r, betweenTxns (ops r ++ [.respond .ok]) = true) : (rowCommand row ops s).inv := by
  have hline := inv_line h
  unfold rowCommand
  split
  · cases rowOperand row with
    | none => exact raise_inv hline hlist _
    | some r => exact composite_inv h hlist (hops r)
  · exact raise_inv hline hlist _

theorem translate_inv {s : State} (hline : LineInv s) (hlist : s.list = .empty) (ws : List Word) :
    (translate ws s).inv := by
  obtain h | h | ⟨ps, -, h⟩ := translate_cases ws s <;> rw [h]
  · exact raise_inv hline hlist _
  · exact raise_inv hline hlist _
  · exact respond_inv (setPixels_lineInv hline ps) (by rw [setPixels_frame]; exact hlist) _

/-- A new command, taken by an idle block. -/
theorem exec_inv {s : State} (h : s.inv) (hcmd : s.cmdst = .idle) (i : Instr) : ∃ t, exec i s = .next t ∧ t.inv := by
  have hline := inv_line h
  have hlist := inv_list h (by simp [hcmd])
  cases i with
  | transmit | writeReg | decodeOff | setIntensity | scanLimitAll | setOpmode | setDisplayTest | matrixInit
  | matrixClear | renderFull | renderCols => exact ⟨_, rfl, composite_inv h hlist rfl⟩
  | writeRow row value =>
    exact ⟨_, exec_writeRow row value s, rowCommand_inv h hlist row fun _ => rfl⟩
  | renderRow row => exact ⟨_, exec_renderRow row s, rowCommand_inv h hlist row fun _ => rfl⟩
  | translateList count =>
    refine ⟨_, rfl, ?_⟩
    split
    · exact respond_inv hline hlist _
    · next hcount =>
      obtain ⟨hseq, hwork⟩ := inv_rest h (by simp [hcmd])
      have hpos : 0 < count.toNat := Nat.pos_of_ne_zero fun h0 => hcount (BitVec.eq_of_toNat_eq h0)
      refine ⟨hline.bus, hline.link, ?_, hline.memory⟩
      simp [State.commandInv, hseq, hwork, hpos]
  | translateWord word =>
    refine ⟨_, rfl, ?_⟩
    rw [if_neg (by simp [hcmd])]
    exact raise_inv hline hlist _
  | busSelect =>
    refine ⟨_, rfl, ?_⟩
    split
    · next hssn => exact respond_inv (selectLine_lineInv hline hssn) hlist _
    · exact raise_inv hline hlist _
  | busWrite f =>
    refine ⟨_, rfl, ?_⟩
    split_ifs with hssn hwr
    · exact raise_inv hline hlist _
    · exact raise_inv hline hlist _
    · exact respond_inv (writeTxdr_lineInv hline (by simpa using hssn) (by simpa using hwr) f) hlist _
  | busWait => exact ⟨_, rfl, runCommand_inv h hlist rfl⟩
  | busDeselect =>
    refine ⟨_, rfl, ?_⟩
    split_ifs with hssn hwr hdone
    · exact raise_inv hline hlist _
    · exact raise_inv hline hlist _
    · exact raise_inv hline hlist _
    · exact respond_inv (deselectLine_lineInv hline (by simpa using hdone)) (by simpa using hlist) _

/-- A data word of a list being collected: one more, or the last one (42_bitmap.md R200). -/
theorem execTranslateWord_inv {s : State} (h : s.inv) (hcmd : s.cmdst = .collect) (w : Word) :
    ∃ t, exec (.translateWord w) s = .next t ∧ t.inv := by
  obtain ⟨hbus, hlink, ⟨hseq, hrest, hfits, hroom, -⟩, hmem⟩ := h
  refine ⟨_, rfl, ?_⟩
  dsimp only
  rw [if_pos hcmd]
  split_ifs with hlast
  · exact translate_inv (s := { s with cmdst := .exec, list := .empty }) ⟨hbus, hlink, hmem⟩ rfl _
  · have hlt := hroom hcmd
    rw [List.length_append, List.length_singleton] at hlast
    refine ⟨hbus, hlink, ⟨hseq, hrest, hfits, fun _ => ?_, fun hne => absurd hcmd hne⟩, hmem⟩
    rw [List.length_append, List.length_singleton]
    exact Nat.lt_of_le_of_ne hlt hlast

/-! ## One step of the machine -/

theorem takeWord_inv {s t : State} (h : s.inv) (hcmd : s.cmdst ≠ .exec) {w : Word} (ht : takeWord w s = .next t) :
    t.inv := by
  unfold takeWord at ht
  cases hst : s.cmdst with
  | exec => exact absurd hst hcmd
  | collect =>
    obtain ⟨u, hu, hinv⟩ := execTranslateWord_inv h hst w
    simp only [hst, decodePort, decide_true, if_true, hu, Host.Outcome.next.injEq] at ht
    exact ht ▸ hinv
  | idle =>
    split at ht
    · next i _ =>
      obtain ⟨u, hu, hinv⟩ := exec_inv h hst i
      obtain rfl : u = t := by simpa [hu] using ht
      exact hinv
    · cases ht
      exact raise_inv (inv_line h) (inv_list h (by simp [hst])) _

theorem hostMove_inv {s t : State} (h : s.inv) (hcmd : s.cmdst ≠ .exec) {a : HostAction}
    (ht : hostMove a s = .next t) : t.inv := by
  unfold hostMove at ht
  split at ht
  · exact takeWord_inv h hcmd ht
  · cases ht
    exact h
  · cases ht
    exact resetInput_inv h
  · cases ht

theorem useTurn_inv {s : State} (h : s.inv) : (useTurn s).inv := by
  unfold useTurn
  split <;> exact h

@[simp] theorem useTurn_cmdst (s : State) : (useTurn s).cmdst = s.cmdst := by
  unfold useTurn
  split <;> rfl

@[simp] theorem useTurn_shifterEnabled (s : State) : (useTurn s).shifterEnabled = s.shifterEnabled := by
  unfold useTurn
  split <;> rfl

/-- Settles O52: each kind of step of `step_cases` keeps the invariant. -/
theorem everyStepKeepsTheInvariant : Obligations.EveryStepKeepsTheInvariant := by
  intro s t h hstep
  have htick : (tick s).inv := h
  obtain ⟨-, ⟨-, rfl⟩ | ⟨-, hexec, rfl⟩ | ⟨-, -, hen, ⟨-, rfl⟩ | rfl⟩ | ⟨-, hcmd, a, rest, -, hhost | hhost⟩ |
    ⟨-, -, -, -, rfl⟩⟩ := step_cases hstep
  · exact resetInput_inv h
  · exact microStep_inv htick hexec
  · exact shifterStep_inv htick hen
  · exact shifterStep_inv (useTurn_inv htick) ((useTurn_shifterEnabled _).trans hen)
  · exact hostMove_inv (s := { tick s with program := rest }) htick hcmd hhost
  · have hcmd' : (useTurn (tick s)).cmdst ≠ .exec := by simpa using hcmd
    exact hostMove_inv (s := { useTurn (tick s) with program := rest }) (useTurn_inv htick) hcmd' hhost
  · exact htick

/-! ## INITD (10_state.md R27) -/

/-- The transactions of MATRIX_INIT, with SEQ 1 to 13 (41_driver_protocol.md R168). -/
def initItems (c : Config) : List (Nat × FrameSource) :=
  (initFrames c ++ allRows.map clearFrame).mapIdx fun n f => (n + 1, .const f)

theorem matrixInitSteps_eq (c : Config) : matrixInitSteps c = txnOps (initItems c) ++ [.setInit] := rfl

/-- `s` with INITD at `b`: nothing else of the machine may depend on `b`. -/
def State.withInitd (b : Bool) (s : State) : State := { s with initd := b }

section
variable (b : Bool) (s : State)

@[simp] theorem withInitd_initd : (s.withInitd b).initd = b := rfl

theorem receive_withInitd (e : WireEvent) : receive e (s.withInitd b) = (receive e s).withInitd b := by
  cases e with
  | ssFall => rfl
  | bit v =>
    rw [receive, receive, apply_ite (State.withInitd b)]
    rfl
  | ssRise =>
    rw [receive, receive, apply_ite (State.withInitd b)]
    rfl

theorem emit_withInitd (e : WireEvent) : emit e (s.withInitd b) = (emit e s).withInitd b :=
  receive_withInitd b { s with trace := s.trace ++ [e] } e

theorem shiftBit_withInitd : shiftBit (s.withInitd b) = (shiftBit s).withInitd b :=
  congrArg (fun u : State => { u with shr := s.shr <<< 1, cnt := s.cnt - 1 }) (emit_withInitd b s _)

theorem deselectLine_withInitd : deselectLine (s.withInitd b) = (deselectLine s).withInitd b :=
  emit_withInitd b { s with ssn := true, wr := false } _

theorem shifterStep_withInitd : shifterStep (s.withInitd b) = (shifterStep s).withInitd b := by
  have hload : (s.withInitd b).loadEnabled = s.loadEnabled := rfl
  have hshift : (s.withInitd b).shiftEnabled = s.shiftEnabled := rfl
  have hfinish : (s.withInitd b).finishEnabled = s.finishEnabled := rfl
  unfold shifterStep
  rw [hload, hshift, hfinish]
  split_ifs
  · rfl
  · exact shiftBit_withInitd b s
  · rfl
  · rfl

theorem shifterRun_withInitd (n : Nat) : shifterRun n (s.withInitd b) = (shifterRun n s).withInitd b := by
  induction n generalizing s with
  | zero => rfl
  | succ n ih => rw [shifterRun, shifterStep_withInitd, ih, shifterRun]

theorem sentFrames_withInitd (fs : List Frame) : sentFrames (s.withInitd b) fs = (sentFrames s fs).withInitd b := by
  induction fs generalizing s with
  | nil => rfl
  | cons f fs ih => exact ih (sentFrame s f)

theorem setPixels_withInitd (ps : List Pixel) :
    ps.foldl setPixel (s.withInitd b) = (ps.foldl setPixel s).withInitd b := by
  induction ps generalizing s with
  | nil => rfl
  | cons p ps ih => exact ih (setPixel s p)

theorem translate_withInitd (ws : List Word) : translate ws (s.withInitd b) = (translate ws s).withInitd b := by
  unfold translate
  split
  · rfl
  · split
    · rfl
    · rw [setPixels_withInitd]
      rfl

variable {s} (hr : s.resets = [])
include hr

theorem composite_withInitd (items : List (Nat × FrameSource)) :
    composite (txnOps items) (s.withInitd b) = (composite (txnOps items) s).withInitd b := by
  cases hidle : s.busIdle with
  | false =>
    rw [composite_not_idle _ hidle, composite_not_idle (s := s.withInitd b) _ hidle]
    rfl
  | true =>
    rw [composite_sends items hidle hr, composite_sends (s := s.withInitd b) items hidle hr, txnFrames_of_fb (s := s) rfl,
      sentFrames_withInitd]
    rfl

theorem rowCommand_withInitd (row : BitVec 4) {ops : Row → List MicroOp} (items : Row → List (Nat × FrameSource))
    (hops : ∀ r, ops r = txnOps (items r)) :
    rowCommand row ops (s.withInitd b) = (rowCommand row ops s).withInitd b := by
  have hidle : (s.withInitd b).busIdle = s.busIdle := rfl
  unfold rowCommand
  rw [hidle]
  split
  · cases rowOperand row with
    | none => rfl
    | some r =>
      dsimp only
      rw [hops r]
      exact composite_withInitd b hr (items r)
  · rfl

/-- No command but MATRIX_INIT reads or writes INITD: it does the same whatever INITD holds, and leaves it. -/
theorem exec_withInitd {i : Instr} (hi : i ≠ .matrixInit) {t : State} (h : exec i s = .next t) :
    exec i (s.withInitd b) = .next (t.withInitd b) := by
  have sends := composite_withInitd b hr
  cases i with
  | transmit | writeReg | decodeOff | setIntensity | scanLimitAll | setOpmode | setDisplayTest =>
    cases h
    exact congrArg _ (sends [(0, .const _)])
  | matrixInit => exact absurd rfl hi
  | matrixClear =>
    cases h
    exact congrArg _ (sends ((allRows.map clearFrame).mapIdx fun n f => (n + 1, .const f)))
  | renderFull =>
    cases h
    exact congrArg _ (sends (allRows.map fun r => (rowNumber r, .row r 0xFF)))
  | renderCols col =>
    cases h
    exact congrArg _ (sends (allRows.map fun r => (rowNumber r, .row r (colmask col))))
  | writeRow row value =>
    cases h
    exact congrArg _ (rowCommand_withInitd b hr row (fun r => [(0, .const (mkFrame (rowAddr r) value))]) fun _ => rfl)
  | renderRow row =>
    cases h
    exact congrArg _ (rowCommand_withInitd b hr row (fun r => [(1, .row r 0xFF)]) fun _ => rfl)
  | busWait =>
    cases h
    have hwait : runCommand [.wait, .respond .ok] (s.withInitd b) = (runCommand [.wait, .respond .ok] s).withInitd b := by
      rw [run_wait hr, run_wait (s := s.withInitd b) hr, shifterRun_withInitd]
      rfl
    exact congrArg _ hwait
  | translateList | busSelect | busWrite =>
    cases h
    simp only [apply_ite (State.withInitd b)]
    rfl
  | translateWord word =>
    cases h
    simp only [apply_ite (State.withInitd b), ← translate_withInitd]
    rfl
  | busDeselect =>
    cases h
    simp only [exec, execBusDeselect, deselectLine_withInitd, apply_ite (State.withInitd b)]
    rfl

/-- Transactions that set INITD at their end read the bus, not INITD, and set it where the bus was idle. -/
theorem composite_setInit_withInitd (items : List (Nat × FrameSource)) :
    composite (txnOps items ++ [.setInit]) (s.withInitd b) =
      (composite (txnOps items ++ [.setInit]) s).withInitd (b || s.busIdle) := by
  cases hidle : s.busIdle with
  | false =>
    rw [composite_not_idle _ hidle, composite_not_idle (s := s.withInitd b) _ hidle, Bool.or_false]
    rfl
  | true =>
    rw [composite_sends_init items hidle hr, composite_sends_init (s := s.withInitd b) items hidle hr,
      txnFrames_of_fb (s := s) rfl, sentFrames_withInitd, Bool.or_true]
    rfl

theorem execMatrixInit_withInitd {t : State} (h : exec .matrixInit s = .next t) :
    exec .matrixInit (s.withInitd b) = .next (t.withInitd (b || s.busIdle)) := by
  have hsteps := composite_setInit_withInitd b hr (initItems s.cfg)
  rw [← matrixInitSteps_eq] at hsteps
  cases h
  exact congrArg Host.Outcome.next hsteps

end

/-- Settles O48. That a command does the same whatever INITD holds says, for the value INITD has, what becomes of it. -/
theorem initdIsWrittenOnlyByMatrixInit : Obligations.InitdIsWrittenOnlyByMatrixInit := by
  refine ⟨fun s t i hr h hi => ?_, fun s t hr h => ?_, fun s => rfl, fun s t i b hr hi h => exec_withInitd b hr hi h,
    fun s t b hr h => execMatrixInit_withInitd b hr h⟩
  · have hsame : t = t.withInitd s.initd :=
      Host.Outcome.next.inj (h.symm.trans (exec_withInitd s.initd hr hi h))
    exact (congrArg State.initd hsame).trans (withInitd_initd _ _)
  · have hsame : t = t.withInitd (s.initd || s.busIdle) :=
      Host.Outcome.next.inj (h.symm.trans (execMatrixInit_withInitd s.initd hr h))
    exact (congrArg State.initd hsame).trans (withInitd_initd _ _)

end Sys2Proof.Machine
end

section
/-! PROOFS. The family 20_memory.md: where a frame's bits stand (R61, R62), the frame buffer's rows (R60), and the
order of a command and a step of the shifter (R67). -/

namespace Sys2Proof.Machine

/-! ## Byte and bit order (20_memory.md R61, R62) -/

section
variable (a v : Byte) {k : Nat} (hk : k < 8)

@[simp] theorem frameAddr_mkFrame : frameAddr (mkFrame a v) = a := BitVec.extractLsb'_append_eq_left

@[simp] theorem frameData_mkFrame : frameData (mkFrame a v) = v := BitVec.extractLsb'_append_eq_right

include hk

theorem mkFrame_getLsbD_data : (mkFrame a v).getLsbD k = v.getLsbD k := by
  rw [mkFrame, BitVec.getLsbD_append, if_pos hk]

theorem mkFrame_getLsbD_addr : (mkFrame a v).getLsbD (k + 8) = a.getLsbD k := by
  rw [mkFrame, BitVec.getLsbD_append, if_neg (by omega), Nat.add_sub_cancel]

end

/-- Frame bit k is the (16-k)th on the wire. -/
theorem frameBits_getElem?_fifteen_sub (f : Frame) {k : Nat} (hk : k < 16) :
    (frameBits f)[15 - k]? = some (f.getLsbD k) := by
  rw [List.getElem?_eq_getElem (by rw [frameBits_length]; omega), frameBits_getElem f (15 - k) (by omega),
    Nat.sub_sub_self (by omega)]

/-- Settles O22: the bits of `mkFrame`, each at its place in `frameBits`. -/
theorem frameAndWireBitOrder : Obligations.FrameAndWireBitOrder := by
  refine fun a v => ⟨fun k hk => ?_, frameAddr_mkFrame a v, frameData_mkFrame a v⟩
  have hdata := mkFrame_getLsbD_data a v hk
  have haddr := mkFrame_getLsbD_addr a v hk
  refine ⟨hdata, haddr, ?_, ?_⟩
  · rw [frameBits_getElem?_fifteen_sub _ (by omega), hdata]
  · rw [show 7 - k = 15 - (k + 8) by omega, frameBits_getElem?_fifteen_sub _ (by omega), haddr]

/-! ## The rows of the frame buffer (20_memory.md R60) -/

theorem readRow_writeRow {s : State} (h : Memory.wf s.fb = true) (r r' : Row) (v : Byte) :
    (s.writeRow r v).readRow r' = if r' = r then v else s.readRow r' := by
  rw [State.readRow, writeRow_fb, Memory.read_write h]
  exact if_congr (rowNumber_inj.trans eq_comm) rfl rfl

/-- Settles O38: read after write by rows, and the form by `writeRow_wf`. -/
theorem frameBufferReadAfterWrite : Obligations.FrameBufferReadAfterWrite :=
  fun _ r r' v h => ⟨readRow_writeRow h r r' v, writeRow_wf h r v⟩

/-! ## The canonical form determines the list (log 12) -/

theorem Memory.mem_of_lookup {m : Memory} {a : Nat} {v : Byte} (h : Memory.lookup m a = some v) : (a, v) ∈ m := by
  induction m with
  | nil => cases h
  | cons c m ih =>
    obtain ⟨k, u⟩ := c
    rw [lookup] at h
    split at h
    · next hk =>
      cases h
      exact hk ▸ List.mem_cons_self
    · exact List.mem_cons_of_mem _ (ih h)

/-- In a rising store the first address is found nowhere else, so two stores that list the same bytes begin alike. -/
theorem Memory.eq_of_lookup_eq {lo : Nat} {m m' : Memory} (h : Memory.risingFrom lo m = true)
    (h' : Memory.risingFrom lo m' = true) (heq : ∀ a, Memory.lookup m a = Memory.lookup m' a) : m = m' := by
  induction m generalizing lo m' with
  | nil =>
    cases m' with
    | nil => rfl
    | cons c' m' => simpa [lookup] using heq c'.1
  | cons c m ih =>
    obtain ⟨k, u⟩ := c
    cases m' with
    | nil => simpa [lookup] using heq k
    | cons c' m' =>
      obtain ⟨k', u'⟩ := c'
      simp only [risingFrom, Bool.and_eq_true, decide_eq_true_eq] at h h'
      obtain ⟨-, hm⟩ := h
      obtain ⟨-, hm'⟩ := h'
      have hk : k = k' := by
        by_contra hne
        obtain hlt | hlt := Nat.lt_or_gt_of_ne hne
        · simpa [lookup, Ne.symm hne, lookup_below hm' (show k < k' + 1 by omega)] using heq k
        · simpa [lookup, hne, lookup_below hm (show k' < k + 1 by omega)] using heq k'
      subst hk
      have hu : u = u' := by simpa [lookup] using heq k
      have htail : ∀ a, lookup m a = lookup m' a := by
        intro a
        by_cases ha : k = a
        · rw [lookup_below hm (by omega), lookup_below hm' (by omega)]
        · simpa [lookup, ha] using heq a
      rw [hu, ih hm hm' htail]

/-- What canonical form says of a listed byte: it stands at a row's address and is not 0x00. -/
theorem Memory.listed_of_wf {m : Memory} (h : Memory.wf m = true) {a : Nat} {v : Byte}
    (hl : Memory.lookup m a = some v) : (∃ r : Row, rowNumber r = a) ∧ v ≠ 0x00 := by
  obtain ⟨hrising, hcells⟩ := Bool.and_eq_true_iff.mp h
  have hcell : a ≤ 8 ∧ v ≠ 0x00 := by simpa using List.all_eq_true.mp hcells _ (mem_of_lookup hl)
  obtain ⟨hle, hv⟩ := hcell
  have hpos : 1 ≤ a := by
    by_contra hlt
    simp [lookup_below hrising (show a < 1 by omega)] at hl
  exact ⟨⟨⟨a - 1, by omega⟩, Nat.sub_add_cancel hpos⟩, hv⟩

/-- In canonical form a row is listed exactly where it does not read 0x00. -/
theorem Memory.lookup_of_wf {m : Memory} (h : Memory.wf m = true) (a : Nat) :
    Memory.lookup m a = if Memory.read m a = 0x00 then none else some (Memory.read m a) := by
  cases hl : lookup m a with
  | none => simp [read, hl]
  | some v =>
    obtain ⟨-, hv⟩ := listed_of_wf h hl
    have hread : read m a = v := by simp [read, hl]
    rw [hread, if_neg hv]

theorem Memory.lookup_of_not_row {m : Memory} (h : Memory.wf m = true) {a : Nat} (ha : ¬∃ r : Row, rowNumber r = a) :
    Memory.lookup m a = none := by
  cases hl : lookup m a with
  | none => rfl
  | some v =>
    obtain ⟨hrow, -⟩ := listed_of_wf h hl
    exact absurd hrow ha

/-- Settles O39: rows that read the same are listed the same, no other address is listed, and what is listed determines
the list. -/
theorem frameBufferFormIsCanonical : Obligations.FrameBufferFormIsCanonical := by
  intro s t hs ht hrows
  obtain ⟨hrising, -⟩ := Bool.and_eq_true_iff.mp hs
  obtain ⟨hrising', -⟩ := Bool.and_eq_true_iff.mp ht
  refine Memory.eq_of_lookup_eq hrising hrising' fun a => ?_
  by_cases ha : ∃ r : Row, rowNumber r = a
  · obtain ⟨r, rfl⟩ := ha
    have hread : Memory.read s.fb (rowNumber r) = Memory.read t.fb (rowNumber r) := hrows r
    rw [Memory.lookup_of_wf hs, Memory.lookup_of_wf ht, hread]
  · rw [Memory.lookup_of_not_row hs ha, Memory.lookup_of_not_row ht ha]

/-! ## BUS_WAIT after a step of the shifter (20_memory.md R67) -/

theorem shifterStep_of_not_enabled {s : State} (h : s.shifterEnabled = false) : shifterStep s = s := by
  simp only [State.shifterEnabled, Bool.or_eq_false_iff, and_assoc] at h
  simp [shifterStep, h]

/-- A step taken before is one the shifter would take anyway. -/
theorem shifterRun_shifterStep (s : State) :
    shifterRun (shifterLeft (shifterStep s)) (shifterStep s) = shifterRun (shifterLeft s) s := by
  cases h : s.shifterEnabled with
  | false => rw [shifterStep_of_not_enabled h]
  | true => rw [shifterLeft_step h, shifterRun]

theorem exec_busWait {s : State} (hr : s.resets = []) :
    exec .busWait s = .next (completed .ok (shifterRun (shifterLeft s) s)) := congrArg _ (run_wait hr)

theorem exec_busWait_shifterStep {s : State} (hr : s.resets = []) :
    exec .busWait (shifterStep s) = exec .busWait s := by
  obtain ⟨-, hresets, -⟩ := shifterStep_keeps s
  rw [exec_busWait (hresets.trans hr), exec_busWait hr, shifterRun_shifterStep]

/-! ## A data word and a step of the shifter (20_memory.md R67) -/

/-- `s` with the frame buffer and the command port of `p`: the part a data word of TRANSLATE_LIST works on, which the
shifter neither reads nor writes. -/
def State.withCommandPart (s p : State) : State :=
  { s with
    fb := p.fb, faulted := p.faulted, resp := p.resp, cmdst := p.cmdst, seq := p.seq, list := p.list, work := p.work }

section
variable (s p : State)

theorem emit_bit_withCommandPart (b : Bool) :
    emit (.bit b) (s.withCommandPart p) = (emit (.bit b) s).withCommandPart p := by
  simp only [emit, receive, apply_ite fun u : State => u.withCommandPart p]
  rfl

theorem shiftBit_withCommandPart : shiftBit (s.withCommandPart p) = (shiftBit s).withCommandPart p :=
  congrArg (fun u : State => { u with shr := s.shr <<< 1, cnt := s.cnt - 1 }) (emit_bit_withCommandPart s p _)

theorem shifterStep_withCommandPart : shifterStep (s.withCommandPart p) = (shifterStep s).withCommandPart p := by
  have hload : (s.withCommandPart p).loadEnabled = s.loadEnabled := rfl
  have hshift : (s.withCommandPart p).shiftEnabled = s.shiftEnabled := rfl
  have hfinish : (s.withCommandPart p).finishEnabled = s.finishEnabled := rfl
  unfold shifterStep
  rw [hload, hshift, hfinish]
  split_ifs
  · rfl
  · exact shiftBit_withCommandPart s p
  · rfl
  · rfl

theorem setPixels_withCommandPart (ps : List Pixel) :
    ps.foldl setPixel (s.withCommandPart p) = s.withCommandPart (ps.foldl setPixel p) := by
  induction ps generalizing p with
  | nil => rfl
  | cons q ps ih => exact ih (setPixel p q)

theorem translate_withCommandPart (ws : List Word) :
    translate ws (s.withCommandPart p) = s.withCommandPart (translate ws p) := by
  unfold translate
  split
  · rfl
  · split
    · rfl
    · rw [setPixels_withCommandPart]
      rfl

/-- A data word does the same to the frame buffer and the command port whatever the rest of the state is, and leaves the
rest. -/
theorem exec_translateWord_withCommandPart {w : Word} {t : State} (h : exec (.translateWord w) p = .next t) :
    exec (.translateWord w) (s.withCommandPart p) = .next (s.withCommandPart t) := by
  cases h
  simp only [apply_ite (State.withCommandPart s), ← translate_withCommandPart]
  rfl

end

theorem shifterStep_commandPart (s : State) : (shifterStep s).withCommandPart s = shifterStep s :=
  (shifterStep_withCommandPart s s).symm

theorem exec_translateWord_shifterStep {s t : State} {w : Word} (h : exec (.translateWord w) s = .next t) :
    exec (.translateWord w) (shifterStep s) = .next (shifterStep t) := by
  have hrest : s.withCommandPart t = t :=
    (Host.Outcome.next.inj (h.symm.trans (exec_translateWord_withCommandPart s s h))).symm
  calc exec (.translateWord w) (shifterStep s)
      = exec (.translateWord w) ((shifterStep s).withCommandPart s) := by rw [shifterStep_commandPart]
    _ = .next ((shifterStep s).withCommandPart t) := exec_translateWord_withCommandPart (shifterStep s) s h
    _ = .next (shifterStep t) := by rw [← shifterStep_withCommandPart, hrest]

/-- Settles O25: the wait runs out whatever shift is left, and a data word works on a part the shifter leaves alone. -/
theorem interleavingDoesNotMatterToTheWait : Obligations.InterleavingDoesNotMatterToTheWait :=
  ⟨fun _ => exec_busWait_shifterStep, fun _ _ _ => exec_translateWord_shifterStep⟩

end Sys2Proof.Machine
end

section
/-! PROOFS. The family 30_encoding.md: the command words and their decoding (R91, R92, R95, R96), legal and illegal words
and the opcode table (R97), the pseudo-instructions (R102), and the step that runs a decoded command (R90, R100). -/

namespace Sys2Proof

/-! ## Words with an operand in their low bits (30_encoding.md R92) -/

/-- Two fields side by side, as one operand. -/
theorem shifted_or_setWidth {m n : Nat} (x : BitVec m) (y : BitVec n) :
    (x.setWidth 32 <<< n) ||| y.setWidth 32 = (x ++ y).setWidth 32 := by
  apply BitVec.eq_of_getLsbD_eq
  intro k hk
  by_cases hkn : k < n
  · simp [BitVec.getLsbD_append, hk, hkn]
  · have hy : y.getLsbD k = false := BitVec.getLsbD_of_ge y k (by omega)
    simp [BitVec.getLsbD_append, hk, hkn, hy]

section
variable {n : Nat} (p : Word) (x : BitVec n)

/-- The bits above the operand are those of the word's fixed part `p`. -/
theorem operandWord_extractLsb'_above {k len : Nat} (hk : n ≤ k) :
    (p ||| x.setWidth 32).extractLsb' k len = p.extractLsb' k len := by
  have hzero : (x.setWidth 32).extractLsb' k len = 0#len := by
    apply BitVec.eq_of_getLsbD_eq
    intro j _
    simp [BitVec.getLsbD_of_ge x (k + j) (by omega)]
  rw [BitVec.extractLsb'_or, hzero, BitVec.or_zero]

/-- A field within the operand is read from the operand, the fixed part being zero there. -/
theorem operandWord_extractLsb' {k len : Nat} (hk : k + len ≤ 32) (hp : p.extractLsb' k len = 0#len) :
    (p ||| x.setWidth 32).extractLsb' k len = x.extractLsb' k len := by
  rw [BitVec.extractLsb'_or, hp, BitVec.extractLsb'_setWidth_of_le hk, BitVec.zero_or]

/-- A mask of bits above the operand sees the fixed part only. -/
theorem operandWord_and {r : Word} (hr : r.extractLsb' 0 n = 0#n) : (p ||| x.setWidth 32) &&& r = p &&& r := by
  have hzero : x.setWidth 32 &&& r = 0#32 := by
    apply BitVec.eq_of_getLsbD_eq
    intro k hk
    by_cases hkn : k < n
    · have hbit : r.getLsbD k = false := by simpa [hkn] using congrArg (·.getLsbD k) hr
      simp [hbit]
    · simp [BitVec.getLsbD_of_ge x k (by omega)]
  rw [BitVec.and_or_distrib_right, hzero, BitVec.or_zero]

end

/-! ## Decoding an encoded command (30_encoding.md R91, R92) -/

theorem encode_writeRow (row : BitVec 4) (value : Byte) :
    encode (.writeRow row value) = opWord 0x8 ||| (row ++ value).setWidth 32 := by
  rw [← shifted_or_setWidth, ← BitVec.or_assoc, encode]

theorem encodePair_eq (x y : BitVec 4) : encodePair x y = (x ++ y).setWidth 32 := shifted_or_setWidth x y

theorem xField_encodePair (x y : BitVec 4) : xField (encodePair x y) = x := by
  rw [encodePair_eq, xField, BitVec.extractLsb'_setWidth_of_le (by decide), BitVec.extractLsb'_append_eq_left]

theorem yField_encodePair (x y : BitVec 4) : yField (encodePair x y) = y := by
  rw [encodePair_eq, yField, lowNibbleField, BitVec.extractLsb'_setWidth_of_le (by decide),
    BitVec.extractLsb'_append_eq_right]

/-- Decoding takes the fields back out: the opcode and SUB stand above the operand, no reserved bit is set there, and the
operand's own fields are read from the operand. -/
theorem decode_encode {i : Instr} (hi : i.isDataWord = false) : decode (encode i) = .ok i := by
  cases i with
  | decodeOff | scanLimitAll | matrixInit | matrixClear | renderFull | busSelect | busWait | busDeselect => rfl
  | setOpmode on | setDisplayTest on => cases on <;> rfl
  | translateWord word => cases hi
  | transmit | setIntensity | translateList | renderRow | renderCols | busWrite =>
    simp [decode, decodePrimitive, unlessReserved, encode, opWord, opField, subField, frameField, lowNibbleField,
      lowByteField, operandWord_extractLsb'_above, operandWord_extractLsb', operandWord_and]
  | writeReg addr value =>
    have haddr : (addr ++ value).extractLsb' 8 8 = addr := BitVec.extractLsb'_append_eq_left
    have hvalue : (addr ++ value).extractLsb' 0 8 = value := BitVec.extractLsb'_append_eq_right
    simp [decode, unlessReserved, encode, opWord, opField, addrField, lowByteField, haddr, hvalue,
      operandWord_extractLsb'_above, operandWord_extractLsb', operandWord_and]
  | writeRow row value =>
    have hrow : (row ++ value).extractLsb' 8 4 = row := BitVec.extractLsb'_append_eq_left
    have hvalue : (row ++ value).extractLsb' 0 8 = value := BitVec.extractLsb'_append_eq_right
    simp [decode, unlessReserved, encode_writeRow, opWord, opField, rowFieldW, lowByteField, hrow, hvalue,
      operandWord_extractLsb'_above, operandWord_extractLsb', operandWord_and]

/-- The port takes every command's word as that command; a data word is taken whole (30_encoding.md R100). -/
theorem decodePort_encode (i : Instr) : decodePort i.isDataWord (encode i) = .ok i := by
  cases h : i.isDataWord with
  | false => exact decode_encode h
  | true =>
    cases i with
    | translateWord word => rfl
    | _ => cases h

/-- Settles O1: the formulas are the definition of `encode`, and the fields of a word are read by `decodePort_encode`. -/
theorem commandWordsAndTheirDecoding : Obligations.CommandWordsAndTheirDecoding :=
  ⟨fun _ => rfl, fun _ _ => rfl, rfl, fun _ => rfl, rfl, fun _ => rfl, fun _ => rfl, fun _ _ => rfl, rfl, rfl, fun _ => rfl,
    fun _ _ => rfl, rfl, fun _ => rfl, fun _ => rfl, rfl, fun _ => rfl, rfl, rfl,
    fun x y => ⟨xField_encodePair x y, yField_encodePair x y⟩, decodePort_encode⟩

/-! ## The rows of the opcode table (30_encoding.md R95 to R97) -/

/-- A word has the opcode of a row of the table, and of a bus primitive's row also the SUB (30_encoding.md R95, R96). -/
def OpRow.Heads (t : OpRow) (w : Word) : Prop :=
  opField w = opField t.pattern ∧ (opField w = 0xF → subField w = subField t.pattern)

/-- The bits of OP, with SUB where the row is a bus primitive's. -/
def OpRow.headMask (t : OpRow) : Word := if opField t.pattern = 0xF then 0xFF000000#32 else 0xF0000000#32

/-- The bits the row's format marks reserved: those its mask checks besides the opcode. -/
def OpRow.reserved (t : OpRow) : Word := t.mask &&& ~~~t.headMask

theorem opField_and (v w : Word) : opField (v &&& w) = opField v &&& opField w := BitVec.extractLsb'_and

theorem subField_and (v w : Word) : subField (v &&& w) = subField v &&& subField w := BitVec.extractLsb'_and

theorem and_opMask (w : Word) : w &&& 0xF0000000#32 = (opField w).setWidth 32 <<< 28 := by
  apply BitVec.eq_of_getLsbD_eq
  intro k hk
  interval_cases k <;> simp [opField]

theorem and_opSubMask (w : Word) :
    w &&& 0xFF000000#32 = (opField w).setWidth 32 <<< 28 ||| (subField w).setWidth 32 <<< 24 := by
  apply BitVec.eq_of_getLsbD_eq
  intro k hk
  interval_cases k <;> simp [opField, subField]

section
variable {t : OpRow} (ht : t ∈ opcodeTable) {w : Word}
include ht

/-- Every row's mask checks OP and bits 27:24. -/
theorem OpRow.heads_of_covers (h : t.covers w = true) : t.Heads w := by
  have hmask : ∀ t ∈ opcodeTable, opField t.mask = BitVec.allOnes 4 ∧ subField t.mask = BitVec.allOnes 4 := by decide
  obtain ⟨hopMask, hsubMask⟩ := hmask t ht
  have hw : w &&& t.mask = t.pattern := by simpa [covers] using h
  have hop : opField w = opField t.pattern := by
    rw [← hw, opField_and, hopMask, BitVec.and_allOnes]
  have hsub : subField w = subField t.pattern := by
    rw [← hw, subField_and, hsubMask, BitVec.and_allOnes]
  exact ⟨hop, fun _ => hsub⟩

theorem OpRow.Heads.and_headMask (h : t.Heads w) : w &&& t.headMask = t.pattern := by
  have hpattern : ∀ t ∈ opcodeTable, t.pattern &&& t.headMask = t.pattern := by decide
  obtain ⟨hop, hsub⟩ := h
  rw [← hpattern t ht, headMask]
  split
  · next hF => rw [and_opSubMask, and_opSubMask, hop, hsub (hop.trans hF)]
  · rw [and_opMask, and_opMask, hop]

/-- Under a row's opcode its mask checks the reserved bits. -/
theorem OpRow.Heads.covers_iff (h : t.Heads w) : t.covers w = true ↔ w &&& t.reserved = 0 := by
  have hparts : ∀ t ∈ opcodeTable, t.mask = t.headMask ||| t.reserved ∧ t.mask &&& t.reserved = t.reserved ∧
      t.pattern &&& t.reserved = 0 := by decide
  obtain ⟨hmask, hreserved, hpattern⟩ := hparts t ht
  rw [covers, beq_iff_eq]
  constructor
  · intro hw
    rw [← hreserved, ← BitVec.and_assoc, hw, hpattern]
  · intro hw
    rw [hmask, BitVec.and_or_distrib_left, h.and_headMask ht, hw]
    exact BitVec.or_zero

/-- The decoder reads a row's command wherever the opcode is the row's, provided its reserved bits are zero. -/
theorem decode_of_heads (h : t.Heads w) : ∃ i, decode w = unlessReserved t.reserved w i ∧ i.mnemonic = t.mnemonic := by
  obtain ⟨hop, hsub⟩ := h
  rw [hop] at hsub
  fin_cases ht
  all_goals
    refine ⟨?_, ?_, ?_⟩
    rotate_left
    · simp (decide := true) only [decode, decodePrimitive, hop, hsub]
      rfl
    · rfl

theorem decode_of_covers (h : t.covers w = true) : ∃ i, decode w = .ok i ∧ i.mnemonic = t.mnemonic := by
  have hheads := OpRow.heads_of_covers ht h
  obtain ⟨i, hdecode, hname⟩ := decode_of_heads ht hheads
  exact ⟨i, hdecode.trans (if_pos ((hheads.covers_iff ht).mp h)), hname⟩

theorem decode_of_heads_not_covers (hheads : t.Heads w) (h : t.covers w = false) : decode w = .error .reservedBit := by
  obtain ⟨i, hdecode, -⟩ := decode_of_heads ht hheads
  exact hdecode.trans (if_neg fun hzero => by simp [(hheads.covers_iff ht).mpr hzero] at h)

/-- Two rows have different opcodes, or different SUBs, so at most one of them matches a word. -/
theorem filter_covers (h : t.covers w = true) : opcodeTable.filter (fun t => t.covers w) = [t] := by
  have hunique : ∀ t ∈ opcodeTable, ∀ t' ∈ opcodeTable, opField t.pattern = opField t'.pattern →
      (opField t.pattern = 0xF → subField t.pattern = subField t'.pattern) → t = t' := by decide
  have hnodup : opcodeTable.Nodup := by decide
  obtain ⟨hop, hsub⟩ := OpRow.heads_of_covers ht h
  have honly : ∀ t' ∈ opcodeTable, t'.covers w = (t' == t) := by
    intro t' ht'
    rw [Bool.eq_iff_iff, beq_iff_eq]
    constructor
    · intro h'
      obtain ⟨hop', hsub'⟩ := OpRow.heads_of_covers ht' h'
      exact hunique t' ht' t ht (hop'.symm.trans hop) fun hF => (hsub' (hop'.trans hF)).symm.trans (hsub (hop'.trans hF))
    · rintro rfl
      exact h
  rw [List.filter_congr honly, List.filter_beq, List.count_eq_one_of_mem hnodup ht]
  rfl

end

/-! ## Illegal words (30_encoding.md R97) -/

theorem decode_opZero {w : Word} (h : opField w = 0) : decode w = .error .opZero := by
  simp [decode, h]

theorem decode_subUndefined {w : Word} (hop : opField w = 0xF) (hsub : 4 ≤ (subField w).toNat) :
    decode w = .error .subUndefined := by
  have hdecode : decode w = decodePrimitive w := by simp [decode, hop]
  rw [hdecode, decodePrimitive]
  split
  · omega
  · omega
  · omega
  · omega
  · rfl

/-- Every opcode is 0, an undefined SUB's, or a row's. -/
theorem opcode_cases (w : Word) :
    opField w = 0 ∨ (opField w = 0xF ∧ 4 ≤ (subField w).toNat) ∨ ∃ t ∈ opcodeTable, t.Heads w := by
  have hcases : ∀ op sub : BitVec 4, op = 0 ∨ (op = 0xF ∧ 4 ≤ sub.toNat) ∨
      ∃ t ∈ opcodeTable, op = opField t.pattern ∧ (op = 0xF → sub = subField t.pattern) := by decide
  exact hcases (opField w) (subField w)

/-- What a word can be: illegal in one of the three cases, or a row's command. -/
theorem decode_cases (w : Word) :
    (opField w = 0 ∧ decode w = .error .opZero) ∨
    ((opField w = 0xF ∧ 4 ≤ (subField w).toNat) ∧ decode w = .error .subUndefined) ∨
    (∃ t ∈ opcodeTable, t.Heads w ∧ t.covers w = false ∧ decode w = .error .reservedBit) ∨
    (∃ t ∈ opcodeTable, t.covers w = true ∧ ∃ i, decode w = .ok i ∧ i.mnemonic = t.mnemonic) := by
  obtain hop | ⟨hop, hsub⟩ | ⟨t, ht, hheads⟩ := opcode_cases w
  · exact .inl ⟨hop, decode_opZero hop⟩
  · exact .inr (.inl ⟨⟨hop, hsub⟩, decode_subUndefined hop hsub⟩)
  · cases hcovers : t.covers w with
    | false => exact .inr (.inr (.inl ⟨t, ht, hheads, hcovers, decode_of_heads_not_covers ht hheads hcovers⟩))
    | true => exact .inr (.inr (.inr ⟨t, ht, hcovers, decode_of_covers ht hcovers⟩))

theorem row_of_decode_ok {w : Word} {i : Instr} (hw : decode w = .ok i) :
    ∃ t ∈ opcodeTable, t.covers w = true ∧ t.mnemonic = i.mnemonic := by
  obtain ⟨-, h⟩ | ⟨-, h⟩ | ⟨t, -, -, -, h⟩ | ⟨t, ht, hcovers, j, h, hname⟩ := decode_cases w
  · cases hw.symm.trans h
  · cases hw.symm.trans h
  · cases hw.symm.trans h
  · cases hw.symm.trans h
    exact ⟨t, ht, hcovers, hname.symm⟩

theorem filter_covers_of_decode_error {w : Word} {e : Illegal} (hw : decode w = .error e) :
    opcodeTable.filter (fun t => t.covers w) = [] := by
  refine List.filter_eq_nil_iff.mpr fun t ht hcovers => ?_
  obtain ⟨i, h, -⟩ := decode_of_covers ht hcovers
  cases hw.symm.trans h

theorem decode_opZero_iff (w : Word) : decode w = .error .opZero ↔ opField w = 0 := by
  refine ⟨fun hw => ?_, decode_opZero⟩
  obtain ⟨hop, -⟩ | ⟨-, h⟩ | ⟨t, -, -, -, h⟩ | ⟨t, -, -, i, h, -⟩ := decode_cases w
  · exact hop
  all_goals cases hw.symm.trans h

theorem decode_subUndefined_iff (w : Word) :
    decode w = .error .subUndefined ↔ opField w = 0xF ∧ 4 ≤ (subField w).toNat := by
  refine ⟨fun hw => ?_, fun ⟨hop, hsub⟩ => decode_subUndefined hop hsub⟩
  obtain ⟨-, h⟩ | ⟨hundefined, -⟩ | ⟨t, -, -, -, h⟩ | ⟨t, -, -, i, h, -⟩ := decode_cases w
  · cases hw.symm.trans h
  · exact hundefined
  all_goals cases hw.symm.trans h

theorem decode_reservedBit_iff (w : Word) :
    decode w = .error .reservedBit ↔ ∃ t ∈ opcodeTable, t.Heads w ∧ t.covers w = false := by
  refine ⟨fun hw => ?_, fun ⟨t, ht, hheads, h⟩ => decode_of_heads_not_covers ht hheads h⟩
  obtain ⟨-, h⟩ | ⟨-, h⟩ | ⟨t, ht, hheads, hcovers, -⟩ | ⟨t, -, -, i, h, -⟩ := decode_cases w
  · cases hw.symm.trans h
  · cases hw.symm.trans h
  · exact ⟨t, ht, hheads, hcovers⟩
  · cases hw.symm.trans h

/-! ## Pseudo-instructions (30_encoding.md R102) -/

/-- A pseudo-instruction's operands fit exactly where its expansion's do. -/
theorem Asm.wf_expand (a : Asm) : a.expand.wf = a.wf := by
  cases a with
  | translate x y => simp [expand, wf]
  | _ => rfl

theorem Asm.expand_expand (a : Asm) : a.expand.expand = a.expand := by
  cases a <;> rfl

theorem assemble_expand (a : Asm) : assemble a.expand = assemble a := by
  rw [assemble, Asm.wf_expand, Asm.expand_expand, assemble]

/-- Settles O5: each row of the table is `assemble_expand` at its pseudo-instruction. -/
theorem pseudoInstructionsExpand : Obligations.PseudoInstructionsExpand :=
  ⟨(assemble_expand .normalOp).symm, (assemble_expand .shutdown).symm, (assemble_expand .testOn).symm,
    (assemble_expand .testOff).symm, fun x y => (assemble_expand (.translate x y)).symm,
    (assemble_expand .renderNone).symm⟩

end Sys2Proof

namespace Sys2Proof.Machine

/-! ## A word at the port (30_encoding.md R90, R97, R100) -/

section
variable {s u : State} (hcmdst : u.cmdst = s.cmdst) {w : Word}
include hcmdst

theorem takeWord_legal {i : Instr} (h : decodePort (decide (s.cmdst = .collect)) w = .ok i) :
    takeWord w u = exec i u := by
  rw [takeWord, hcmdst, h]

/-- An illegal word is answered at once; ILLEGAL_COMMAND is no protocol fault. -/
theorem takeWord_illegal {e : Illegal} (h : decodePort (decide (s.cmdst = .collect)) w = .error e) :
    takeWord w u = .next (completed .illegalCommand u) := by
  simp [takeWord, hcmdst, h, raise, respond, completed, Resp.isProtocolFault]

end

theorem takeWord_illegal_of_idle {s : State} {w : Word} {e : Illegal} (hidle : s.cmdst = .idle) (hseq : s.seq = 0)
    (hwork : s.work = []) (h : decode w = .error e) : takeWord w s = .next { s with resp := .illegalCommand } := by
  have hport : decodePort (decide (s.cmdst = .collect)) w = .error e := by simpa [decodePort, hidle] using h
  rw [takeWord_illegal rfl hport, completed, ← hidle, ← hseq, ← hwork]

/-- Settles O3: the rows by `row_of_decode_ok` and `filter_covers`, and an iff for each case of R97. -/
theorem illegalWordsAndTheOpcodeTable : Obligations.IllegalWordsAndTheOpcodeTable := by
  refine ⟨fun w i hw => ?_, fun w e => filter_covers_of_decode_error, decode_opZero_iff, decode_subUndefined_iff,
    fun w => ?_, fun s w e => takeWord_illegal_of_idle⟩
  · obtain ⟨t, ht, hcovers, hname⟩ := row_of_decode_ok hw
    exact ⟨t, filter_covers ht hcovers, hname⟩
  · simpa only [OpRow.Heads, and_assoc] using decode_reservedBit_iff w

/-! ## One step that takes a word -/

theorem hostMove_command (s : State) (w : Word) : hostMove (.write s.cfg.cmdBase 32 w) s = takeWord w s := by
  simp [hostMove, portAccess, cmdAddr]

section
variable {s : State} {w : Word} {rest : List HostAction} (hwf : s.cfg.wf = true) (hreset : s.resets.head? ≠ some 0)
  (hcmd : s.cmdst ≠ .exec) (hprog : s.program = .write s.cfg.cmdBase 32 w :: rest)
include hwf hreset hcmd hprog

/-- A word that is the host's next action is taken from the state with that action used up: with the shifter still. -/
theorem step_takeWord_still (hstill : s.shifterEnabled = false) :
    step s = takeWord w { tick s with program := rest } := by
  rw [step_of_hostTurn hwf hreset hcmd (.inl hstill) hprog, hstill]
  exact hostMove_command { tick s with program := rest } w

/-- The same with the shifter moving, at the host's turn, which is used up too. -/
theorem step_takeWord_turn (hmoving : s.shifterEnabled = true) (hturn : nextTurn s = .host) :
    step s = takeWord w { useTurn (tick s) with program := rest } := by
  have hcfg : (useTurn (tick s)).cfg = s.cfg := by simp
  rw [step_of_hostTurn hwf hreset hcmd (.inr hturn) hprog, hmoving, ← hcfg]
  exact hostMove_command { useTurn (tick s) with program := rest } w

end

theorem decode_of_decodeTableWord {nbits w : Nat} {i : Instr} (h : decodeTableWord nbits w = some i) :
    decode (BitVec.ofNat 32 (w % 2 ^ nbits)) = .ok i := by
  unfold decodeTableWord at h
  split at h
  · next j hdecode =>
    cases h
    exact hdecode
  · cases h

/-- The state `withFetchWord` prepares takes the table word at once, the turn being the host's where the shifter moves. -/
theorem step_withFetchWord {s : State} {w : Nat} {i : Instr} (hwf : s.cfg.wf = true)
    (h : decodeTableWord 32 w = some i) :
    ∃ u, step (s.withFetchWord 32 w) = exec i u ∧ u.program = s.program ∧ u.fb = s.fb ∧ u.ssn = s.ssn ∧
      u.txe = s.txe ∧ u.bsy = s.bsy ∧ u.wr = s.wr ∧ u.trace = s.trace ∧ u.frames = s.frames ∧ u.drv = s.drv := by
  have hport : decodePort (decide ((s.withFetchWord 32 w).cmdst = .collect)) (BitVec.ofNat 32 (w % 2 ^ 32)) = .ok i :=
    decode_of_decodeTableWord h
  have hreset : (s.withFetchWord 32 w).resets.head? ≠ some 0 := by simp [State.withFetchWord, offerCommand]
  have hcmd : (s.withFetchWord 32 w).cmdst ≠ .exec := by simp [State.withFetchWord, offerCommand]
  cases hen : (s.withFetchWord 32 w).shifterEnabled with
  | false =>
    refine ⟨{ tick (s.withFetchWord 32 w) with program := s.program }, ?_, rfl, rfl, rfl, rfl, rfl, rfl, rfl, rfl, rfl⟩
    exact (step_takeWord_still (s := s.withFetchWord 32 w) hwf hreset hcmd rfl hen).trans (takeWord_legal rfl hport)
  | true =>
    refine ⟨{ useTurn (tick (s.withFetchWord 32 w)) with program := s.program }, ?_, rfl, rfl, rfl, rfl, rfl, rfl, rfl, rfl,
      rfl⟩
    exact (step_takeWord_turn (s := s.withFetchWord 32 w) hwf hreset hcmd rfl hen rfl).trans (takeWord_legal rfl hport)

/-- Settles O14: the step takes the word, and the port's answer says what becomes of it. -/
theorem stepRunsTheDecodedCommand : Obligations.StepRunsTheDecodedCommand := by
  refine ⟨fun s w rest i hwf hreset hcmd hprog hport => ⟨fun hstill => ?_, fun hmoving hturn => ?_⟩,
    fun s w rest e hwf hreset hcmd hprog hport => ⟨fun hstill => ?_, fun hmoving hturn => ?_⟩,
    fun s w i => step_withFetchWord⟩
  · exact (step_takeWord_still hwf hreset hcmd hprog hstill).trans (takeWord_legal rfl hport)
  · exact (step_takeWord_turn hwf hreset hcmd hprog hmoving hturn).trans (takeWord_legal (by simp) hport)
  · exact (step_takeWord_still hwf hreset hcmd hprog hstill).trans (takeWord_illegal rfl hport)
  · exact (step_takeWord_turn hwf hreset hcmd hprog hmoving hturn).trans (takeWord_illegal (by simp) hport)

end Sys2Proof.Machine
end

section
/-! PROOFS. The family 40_transaction.md: what the host and the reset input are held to while a command executes (R133, R135),
the shape of the wire and the receiver (R130, R131), the shifter (R126 to R129), the bus primitives (R121 to R125), and
TRANSMIT (R137). -/

namespace Sys2Proof.Machine

/-! ## What a small step leaves of the outside world's plan -/

theorem shifterStep_plan (s : State) :
    (shifterStep s).program = s.program ∧ (shifterStep s).reads = s.reads ∧ (shifterStep s).resets = s.resets := by
  obtain ⟨-, -, h⟩ | ⟨-, -, h⟩ | ⟨-, -, h⟩ | ⟨-, -, h⟩ := shifterStep_cases s <;> simp [h]

theorem blockStep_plan (s : State) :
    (blockStep s).program = s.program ∧ (blockStep s).reads = s.reads ∧ (blockStep s).resets = s.resets := by
  obtain ⟨-, h⟩ | ⟨q, src, rest, -, h⟩ | ⟨rest, -, h⟩ | ⟨f, rest, -, h⟩ | ⟨rest, -, -, h⟩ | ⟨rest, -, -, h⟩ |
    ⟨rest, -, h⟩ | ⟨rest, -, h⟩ | ⟨c, rest, -, h⟩ := blockStep_cases s <;> simp [h]

theorem microStep_plan (s : State) :
    (microStep s).program = s.program ∧ (microStep s).reads = s.reads ∧ (microStep s).resets = s.resets := by
  unfold microStep
  split
  · exact shifterStep_plan s
  · exact blockStep_plan s

/-! ## Events on the wire (40_transaction.md R130, R131) -/

/-- What the wire and the receiver hold. -/
structure WireState where
  ssn : Bool
  trace : List WireEvent
  rxbits : List Bool
  frames : List Latched
  drv : Memory

def State.wire (s : State) : WireState := ⟨s.ssn, s.trace, s.rxbits, s.frames, s.drv⟩

/-- One event on the wire, as the block emits it: a transaction begins on a high line; a bit goes out where fewer than
sixteen have; a transaction ends with its sixteen bits, or where a reset can come, with those there are (R272). -/
inductive WireStep (reset : Prop) (v : WireState) : WireState → Prop where
  | fall (high : v.ssn = true) : WireStep reset v { v with ssn := false, trace := v.trace ++ [.ssFall], rxbits := [] }
  | bit (b : Bool) (low : v.ssn = false) (room : v.rxbits.length < 16) :
    WireStep reset v { v with trace := v.trace ++ [.bit b], rxbits := v.rxbits ++ [b] }
  | rise (low : v.ssn = false) (whole : v.rxbits.length = 16 ∨ reset) :
    WireStep reset v { v with
      ssn := true, trace := v.trace ++ [.ssRise]
      frames := v.frames ++
        [if v.rxbits.length = 16 then .full (frameOfBits v.rxbits) else .partialOf v.rxbits.length]
      drv := if v.rxbits.length = 16 then
        Memory.put v.drv (frameAddr (frameOfBits v.rxbits)).toNat (frameData (frameOfBits v.rxbits)) else [] }

/-- From `s` to `t` the wire and the receiver have seen some such events, and nothing else. -/
abbrev WirePath (reset : Prop) (s t : State) : Prop := Relation.ReflTransGen (WireStep reset) s.wire t.wire

section
variable {reset : Prop} {s : State}

theorem WirePath.of_wire_eq {t : State} (h : t.wire = s.wire) : WirePath reset s t := by
  rw [WirePath, h]

theorem selectLine_wirePath (high : s.ssn = true) : WirePath reset s (selectLine s) := .single (.fall high)

/-- SS_RISE at the end of a transaction and at a reset is the same to the wire and the receiver. -/
theorem deselectLine_wire (low : s.ssn = false) : (deselectLine s).wire = (releaseLine s).wire := by
  simp only [deselectLine, releaseLine, low, Bool.false_eq_true, if_false, emit, receive]
  split <;> rfl

theorem releaseLine_wirePath (low : s.ssn = false) (whole : s.rxbits.length = 16 ∨ reset) :
    WirePath reset s (releaseLine s) := by
  rw [releaseLine_low low]
  exact .single (.rise low whole)

theorem resetInput_wirePath (hreset : reset) : WirePath reset s (resetInput s) := by
  cases hssn : s.ssn with
  | true =>
    refine .of_wire_eq ?_
    rw [resetInput, releaseLine_high hssn, State.wire, State.wire, hssn]
    rfl
  | false =>
    have hwire : (resetInput s).wire = (releaseLine s).wire := by
      rw [resetInput, releaseLine_low hssn]
      rfl
    rw [WirePath, hwire]
    exact releaseLine_wirePath hssn (.inr hreset)

theorem translate_wire (ws : List Word) (s : State) : (translate ws s).wire = s.wire := by
  obtain h | h | ⟨ps, -, h⟩ := translate_cases ws s <;> rw [h]
  · rfl
  · rfl
  · rw [setPixels_frame]
    rfl

end

section
variable {reset : Prop} {s : State} (h : s.inv)
include h

/-- In an open transaction the receiver has the bits sent so far. -/
theorem inv_rxbits_length (low : s.ssn = false) : s.rxbits.length = s.sentBits := by
  obtain ⟨-, ⟨hrx, -⟩, -⟩ := h
  have hle : s.sentBits ≤ 16 := by unfold State.sentBits; split_ifs <;> omega
  rw [hrx low, List.length_take, frameBits_length, Nat.min_eq_left hle]

theorem shifterStep_wirePath : WirePath reset s (shifterStep s) := by
  obtain ⟨-, -, hstep⟩ | ⟨hbsy, hcnt, hstep⟩ | ⟨-, -, hstep⟩ | ⟨-, -, hstep⟩ := shifterStep_cases s
  · exact .of_wire_eq ((congrArg State.wire hstep).trans rfl)
  · obtain ⟨hbus, -⟩ := id h
    obtain ⟨-, -, hbusy, -⟩ := id hbus
    obtain ⟨-, -, low, -⟩ := hbusy hbsy
    obtain ⟨-, hlt⟩ := sentBits_shift hbus hbsy hcnt
    have room : s.rxbits.length < 16 := by rwa [inv_rxbits_length h low]
    rw [hstep, shiftBit_low low]
    exact .single (.bit _ low room)
  · exact .of_wire_eq ((congrArg State.wire hstep).trans rfl)
  · exact .of_wire_eq ((congrArg State.wire hstep).trans rfl)

/-- A transaction closed after its frame has gone out carries sixteen bits. -/
theorem deselectLine_wirePath (low : s.ssn = false) (hwr : s.wr = true) (hdone : s.shiftDone = true) :
    WirePath reset s (deselectLine s) := by
  obtain ⟨hbsy, htxe⟩ := shiftDone_iff.mp hdone
  have whole : s.rxbits.length = 16 := by
    rw [inv_rxbits_length h low]
    simp [State.sentBits, hwr, hbsy, htxe]
  rw [WirePath, deselectLine_wire low]
  exact releaseLine_wirePath low (.inl whole)

section
variable (hexec : s.cmdst = .exec) {rest : List MicroOp}
include hexec

/-- A transaction is begun on an idle bus only. -/
theorem inv_select (hw : s.work = .select :: rest) : s.ssn = true := by
  obtain ⟨-, -, hfits, -⟩ := inv_command h
  obtain ⟨f, rest, -, hidle, -⟩ | ⟨f, rest, hc, -⟩ | ⟨rest, hc, -⟩ | ⟨rest, hc, -⟩ | ⟨c, hc⟩ | ⟨c, hc, -⟩ | ⟨hidle, -⟩ :=
    workFits_cases (hfits hexec)
  · exact (busIdle_iff.mp hidle).1
  · simp [hw] at hc
  · simp [hw] at hc
  · simp [hw] at hc
  · simp [hw] at hc
  · simp [hw] at hc
  · exact (busIdle_iff.mp hidle).1

/-- A transaction is closed after its frame has gone out only. -/
theorem inv_deselect (hw : s.work = .deselect :: rest) : s.ssn = false ∧ s.wr = true ∧ s.shiftDone = true := by
  obtain ⟨-, -, hfits, -⟩ := inv_command h
  obtain ⟨f, rest, hc, -⟩ | ⟨f, rest, hc, -⟩ | ⟨rest, hc, -⟩ | ⟨rest, -, low, hwr, hdone, -⟩ | ⟨c, hc⟩ | ⟨c, hc, -⟩ |
    ⟨-, hb⟩ := workFits_cases (hfits hexec)
  · simp [hw] at hc
  · simp [hw] at hc
  · simp [hw] at hc
  · exact ⟨low, hwr, hdone⟩
  · simp [hw] at hc
  · simp [hw] at hc
  · simp [hw, betweenTxns] at hb

theorem blockStep_wirePath : WirePath reset s (blockStep s) := by
  have quiet {u : State} (hstep : blockStep s = u) (hwire : u.wire = s.wire) : WirePath reset s (blockStep s) :=
    .of_wire_eq ((congrArg State.wire hstep).trans hwire)
  obtain ⟨-, hstep⟩ | ⟨q, src, rest, -, hstep⟩ | ⟨rest, hw, hstep⟩ | ⟨f, rest, -, hstep⟩ | ⟨rest, -, -, hstep⟩ |
    ⟨rest, -, -, hstep⟩ | ⟨rest, hw, hstep⟩ | ⟨rest, -, hstep⟩ | ⟨c, rest, -, hstep⟩ := blockStep_cases s
  · exact quiet hstep rfl
  · exact quiet hstep rfl
  · rw [hstep]
    exact selectLine_wirePath (inv_select h hexec hw)
  · exact quiet hstep rfl
  · exact quiet hstep rfl
  · exact quiet hstep rfl
  · obtain ⟨low, hwr, hdone⟩ := inv_deselect h hexec hw
    rw [hstep]
    exact deselectLine_wirePath h low hwr hdone
  · exact quiet hstep rfl
  · exact quiet hstep rfl

theorem microStep_wirePath : WirePath reset s (microStep s) := by
  unfold microStep
  split
  · exact shifterStep_wirePath h
  · exact blockStep_wirePath h hexec

end
end

/-- Only the host's own reset is a reset at the port. -/
theorem eq_reset_of_portAccess {c : Config} {a : HostAction} (h : portAccess c a = .reset) : a = .reset := by
  unfold portAccess at h
  split at h
  · split_ifs at h
  · split_ifs at h
  · rfl

/-- A new command is taken by an idle block only: while a list is collected every word is its data word. -/
theorem idle_of_decodePort {s : State} (hcmd : s.cmdst ≠ .exec) {w : Word} {i : Instr}
    (hdecode : decodePort (decide (s.cmdst = .collect)) w = .ok i) (hi : i.isDataWord = false) : s.cmdst = .idle := by
  cases hst : s.cmdst with
  | idle => rfl
  | exec => exact absurd hst hcmd
  | collect =>
    simp only [hst, decodePort, decide_true, if_true, Except.ok.injEq] at hdecode
    simp [← hdecode, Instr.isDataWord] at hi

section
variable {reset : Prop} {s : State} (h : s.inv) (hreset : s.resets ≠ [] → reset)
include h hreset

/-- A small step of an executing command. -/
theorem advance_wirePath (hexec : s.cmdst = .exec) :
    WirePath reset s (advance s) ∧ ((advance s).resets ≠ [] → reset) := by
  unfold advance
  split
  · next hdue =>
    have hcan : reset := hreset (by rintro hnil; simp [hnil] at hdue)
    exact ⟨resetInput_wirePath (s := { s with resets := s.resets.tail }) hcan, fun _ => hcan⟩
  · obtain ⟨-, -, hresets⟩ := microStep_plan (tick s)
    refine ⟨microStep_wirePath (s := tick s) h hexec, fun hne => hreset ?_⟩
    simpa [hresets] using hne

theorem runCommand_wirePath (hlist : s.list = .empty) {ops : List MicroOp} (hfits : workFits s ops = true) :
    WirePath reset s (runCommand ops s) := by
  have hline := inv_line h
  obtain ⟨-, -, ⟨hseq, -⟩, -⟩ := h
  have hstart : ({ s with cmdst := .exec, work := ops } : State).inv :=
    inv_of_exec (s := { s with cmdst := .exec }) ⟨hline.bus, hline.link, hline.memory⟩ rfl hlist hseq hfits
  have hrun := drain_keeps (p := fun u => u.inv ∧ (u.resets ≠ [] → reset) ∧ WirePath reset s u)
    (fun u ⟨hinv, hresets, hpath⟩ hexec => by
      obtain ⟨hnext, hresets'⟩ := advance_wirePath hinv hresets hexec
      exact ⟨advance_inv hinv hexec, hresets', hpath.trans hnext⟩)
    (drainBound ops) (s := { s with cmdst := .exec, work := ops }) ⟨hstart, hreset, .refl⟩
  obtain ⟨-, -, hpath⟩ := hrun
  exact hpath

theorem composite_wirePath (hlist : s.list = .empty) {ops : List MicroOp}
    (hops : betweenTxns (ops ++ [.respond .ok]) = true) : WirePath reset s (composite ops s) := by
  unfold composite
  split
  · next hidle => exact runCommand_wirePath h hreset hlist (workFits_of_between hidle hops)
  · exact .refl

theorem rowCommand_wirePath (hlist : s.list = .empty) (row : BitVec 4) {ops : Row → List MicroOp}
    (hops : ∀ r, betweenTxns (ops r ++ [.respond .ok]) = true) : WirePath reset s (rowCommand row ops s) := by
  unfold rowCommand
  split
  · cases rowOperand row with
    | none => exact .refl
    | some r => exact composite_wirePath h hreset hlist (hops r)
  · exact .refl

/-- A data word is taken at any time, any other command by an idle block. -/
theorem exec_wirePath {i : Instr} (hi : i.isDataWord = false → s.cmdst = .idle) :
    ∃ t, exec i s = .next t ∧ WirePath reset s t := by
  have hlist (hd : i.isDataWord = false) := inv_list h (by simp [hi hd])
  cases i with
  | transmit | writeReg | decodeOff | setIntensity | scanLimitAll | setOpmode | setDisplayTest | matrixInit
  | matrixClear | renderFull | renderCols => exact ⟨_, rfl, composite_wirePath h hreset (hlist rfl) rfl⟩
  | writeRow row value =>
    exact ⟨_, exec_writeRow row value s, rowCommand_wirePath h hreset (hlist rfl) row fun _ => rfl⟩
  | renderRow row => exact ⟨_, exec_renderRow row s, rowCommand_wirePath h hreset (hlist rfl) row fun _ => rfl⟩
  | translateList count =>
    refine ⟨_, rfl, .of_wire_eq ?_⟩
    split <;> rfl
  | translateWord word =>
    refine ⟨_, rfl, .of_wire_eq ?_⟩
    dsimp only
    split_ifs
    · exact translate_wire _ _
    · rfl
    · rfl
  | busSelect =>
    refine ⟨_, rfl, ?_⟩
    split
    · next hssn => exact selectLine_wirePath hssn
    · exact .refl
  | busWrite f =>
    refine ⟨_, rfl, .of_wire_eq ?_⟩
    split_ifs <;> rfl
  | busWait => exact ⟨_, rfl, runCommand_wirePath h hreset (hlist rfl) rfl⟩
  | busDeselect =>
    refine ⟨_, rfl, ?_⟩
    split_ifs with hssn hwr hdone
    · exact .refl
    · exact .refl
    · exact .refl
    · exact deselectLine_wirePath h (by simpa using hssn) (by simpa using hwr) (by simpa using hdone)

theorem takeWord_wirePath (hcmd : s.cmdst ≠ .exec) {w : Word} {t : State} (ht : takeWord w s = .next t) :
    WirePath reset s t := by
  unfold takeWord at ht
  split at ht
  · next i hdecode =>
    obtain ⟨u, hu, hpath⟩ := exec_wirePath h hreset (idle_of_decodePort hcmd hdecode)
    obtain rfl : u = t := by simpa [hu] using ht
    exact hpath
  · cases ht
    exact .refl

theorem hostMove_wirePath (hcmd : s.cmdst ≠ .exec) {a : HostAction} (ha : a = .reset → reset) {t : State}
    (ht : hostMove a s = .next t) : WirePath reset s t := by
  unfold hostMove at ht
  split at ht
  · exact takeWord_wirePath h hreset hcmd ht
  · cases ht
    exact .refl
  · next hport =>
    cases ht
    exact resetInput_wirePath (ha (eq_reset_of_portAccess hport))
  · cases ht

end

@[simp] theorem useTurn_wire (s : State) : (useTurn s).wire = s.wire := by
  unfold useTurn
  split <;> rfl

@[simp] theorem useTurn_resets (s : State) : (useTurn s).resets = s.resets := by
  unfold useTurn
  split <;> rfl

/-- A reset can come in this step: one is planned, or the host's next action is one. -/
def State.resetCanCome (s : State) : Prop := s.resets ≠ [] ∨ s.program.head? = some .reset

/-- What a step can do to the wire and the receiver. -/
theorem step_wirePath {s t : State} (h : s.inv) (hstep : step s = .next t) : WirePath s.resetCanCome s t := by
  have htick : (tick s).inv := h
  have hplan : (tick s).resets ≠ [] → s.resetCanCome := fun hne => .inl (by simpa using hne)
  obtain ⟨-, ⟨hdue, rfl⟩ | ⟨-, hexec, rfl⟩ | ⟨-, -, hen, ⟨-, rfl⟩ | rfl⟩ | ⟨-, hcmd, a, rest, hprog, hhost | hhost⟩ |
    ⟨-, -, -, -, rfl⟩⟩ := step_cases hstep
  · have hcan : s.resetCanCome := .inl (by rintro hnil; simp [hnil] at hdue)
    exact resetInput_wirePath (s := { s with resets := s.resets.tail }) hcan
  · exact microStep_wirePath (s := tick s) htick hexec
  · exact shifterStep_wirePath (s := tick s) htick
  · have hpath := shifterStep_wirePath (reset := s.resetCanCome) (useTurn_inv htick)
    rwa [WirePath, useTurn_wire] at hpath
  · have ha : a = .reset → s.resetCanCome := fun ha => .inr (by simp [hprog, ha])
    exact hostMove_wirePath (s := { tick s with program := rest }) htick hplan hcmd ha hhost
  · have ha : a = .reset → s.resetCanCome := fun ha => .inr (by simp [hprog, ha])
    have hpath := hostMove_wirePath (s := { useTurn (tick s) with program := rest }) (useTurn_inv htick)
      (by simpa using hplan) (by simpa using hcmd) ha hhost
    have hwire : ({ useTurn (tick s) with program := rest } : State).wire = s.wire := useTurn_wire (tick s)
    rwa [WirePath, hwire] at hpath
  · exact .refl

/-- What every event keeps, a step keeps. -/
theorem step_keeps_wire {p : WireState → Prop} {s t : State} (h : s.inv) (hstep : step s = .next t)
    (hevent : ∀ v w, WireStep s.resetCanCome v w → p v → p w) (hs : p s.wire) : p t.wire := by
  have hpath : Relation.ReflTransGen (WireStep s.resetCanCome) s.wire t.wire := step_wirePath h hstep
  generalize t.wire = w at hpath ⊢
  induction hpath with
  | refl => exact hs
  | tail _ hlast ih => exact hevent _ _ hlast ih

theorem not_resetCanCome {s : State} (hresets : s.resets = []) (hhead : s.program.head? ≠ some .reset) :
    ¬s.resetCanCome := by
  rintro (hne | hreset)
  · exact hne hresets
  · exact hhead hreset

/-! ## The shape of the wire (40_transaction.md R130) -/

/-- `State.wireInv`, as said of the wire and the receiver. -/
def WireState.Shaped (v : WireState) : Prop :=
  wireScan v.trace = some (if v.ssn then .closed else .opened v.rxbits.length)

theorem wire_shaped_iff {s : State} : s.wire.Shaped ↔ s.wireInv := Iff.rfl

theorem wireScan_append (trace : List WireEvent) (e : WireEvent) :
    wireScan (trace ++ [e]) = wireNext (wireScan trace) e := List.foldl_concat ..

/-- Where no reset comes, an event keeps the pattern, and where TRACE stands in it. -/
theorem WireStep.shaped {reset : Prop} (hreset : ¬reset) {v w : WireState} (h : WireStep reset v w) (hv : v.Shaped) :
    w.Shaped := by
  unfold WireState.Shaped at hv ⊢
  cases h with
  | fall high => simp [wireScan_append, hv, high, wireNext]
  | bit b low room => simp [wireScan_append, hv, low, wireNext, room]
  | rise low whole =>
    have hfull : v.rxbits.length = 16 := whole.resolve_right hreset
    simp [wireScan_append, hv, low, wireNext, hfull]

/-- Settles O54: every event of a step keeps the pattern. -/
theorem everyStepKeepsTheWireShape : Obligations.EveryStepKeepsTheWireShape := by
  intro s t h hwire hresets hhead hstep
  have hreset := not_resetCanCome hresets hhead
  exact wire_shaped_iff.mp (step_keeps_wire h hstep (fun _ _ hevent => hevent.shaped hreset) (wire_shaped_iff.mpr hwire))

/-! ## The receiver (40_transaction.md R131) -/

/-- `State.receiverInv`, as said of the wire and the receiver. -/
def WireState.Received (v : WireState) : Prop :=
  v.trace.foldl Receiver.next ⟨[], [], []⟩ = ⟨v.rxbits, v.frames, v.drv⟩

theorem wire_received_iff {s : State} : s.wire.Received ↔ s.receiverInv := Iff.rfl

/-- The receiver follows every event, also one of a reset. -/
theorem WireStep.received {reset : Prop} {v w : WireState} (h : WireStep reset v w) (hv : v.Received) : w.Received := by
  unfold WireState.Received at hv ⊢
  cases h with
  | fall high => rw [List.foldl_concat, hv, Receiver.next]
  | bit b low room => rw [List.foldl_concat, hv, Receiver.next]
  | rise low whole =>
    rw [List.foldl_concat, hv, Receiver.next]
    dsimp only
    split <;> rfl

/-- Settles O55: the receiver follows every event of a step. -/
theorem everyStepKeepsTheReceiverImage : Obligations.EveryStepKeepsTheReceiverImage := by
  intro s t h hreceiver hstep
  exact wire_received_iff.mp
    (step_keeps_wire h hstep (fun _ _ hevent => hevent.received) (wire_received_iff.mpr hreceiver))

/-- Where no reset comes, what an event latches is a whole frame. -/
theorem WireStep.partial_mem {reset : Prop} (hreset : ¬reset) {v w : WireState} (h : WireStep reset v w) {n : Nat}
    (hn : .partialOf n ∈ w.frames) : .partialOf n ∈ v.frames := by
  cases h with
  | fall high => exact hn
  | bit b low room => exact hn
  | rise low whole =>
    have hfull : v.rxbits.length = 16 := whole.resolve_right hreset
    simpa [hfull] using hn

/-- Settles O50: an entry that was not there before a step was latched by one of its events. -/
theorem partialFramesComeOnlyFromReset : Obligations.PartialFramesComeOnlyFromReset := by
  intro s t n h hresets hhead hstep
  have hreset := not_resetCanCome hresets hhead
  exact step_keeps_wire (p := fun w => .partialOf n ∈ w.frames → .partialOf n ∈ s.frames) h hstep
    (fun _ _ hevent hv hn => hv (hevent.partial_mem hreset hn)) id

/-! ## The host is held (40_transaction.md R133) -/

/-- Settles O15: a small step and a reset leave the host's plan and what it has read; no other step is one from EXEC. -/
theorem hostIsHeldWhileACommandExecutes : Obligations.HostIsHeldWhileACommandExecutes := by
  intro s t hexec hstep
  obtain ⟨-, ⟨-, rfl⟩ | ⟨-, -, rfl⟩ | ⟨-, hcmd, -⟩ | ⟨-, hcmd, -⟩ | ⟨-, hcmd, -⟩⟩ := step_cases hstep
  · obtain ⟨hprogram, hreads, -⟩ := resetInput_keeps { s with resets := s.resets.tail }
    exact ⟨hprogram, hreads⟩
  · obtain ⟨hprogram, hreads, -⟩ := microStep_plan (tick s)
    exact ⟨hprogram, hreads⟩
  all_goals exact absurd hexec hcmd

/-! ## Running a command and running its small steps (log 1) -/

theorem core_run_zero (s : State) : core.run 0 s = .next s := rfl

theorem core_run_succ {s t : State} (h : step s = .next t) (n : Nat) : core.run (n + 1) s = core.run n t := by
  have hcore : core.step s = .next t := h
  simp only [Host.Core.run, hcore]

/-- A command that still executes has its response to come. -/
def State.WillRespond (s : State) : Prop := s.cmdst = .exec → ∃ c, s.work.getLast? = some (.respond c)

theorem step_of_exec {s : State} (hwf : s.cfg.wf = true) (hexec : s.cmdst = .exec) (h : s.WillRespond) :
    step s = .next (advance s) := by
  obtain ⟨c, hlast⟩ := h hexec
  have hwork : s.work ≠ [] := by rintro hnil; simp [hnil] at hlast
  have hheld : heldMove (tick s) = .next (microStep (tick s)) := if_pos (.inr hwork)
  unfold step nextStep advance
  rw [if_pos hwf, if_pos hexec, hheld, apply_ite Host.Outcome.next]

/-- Only the response itself is the last statement. -/
theorem getLast?_rest {op : MicroOp} {rest : List MicroOp} {c : Resp} (h : (op :: rest).getLast? = some (.respond c))
    (hop : ∀ d, op ≠ .respond d) : rest.getLast? = some (.respond c) := by
  cases rest with
  | nil => exact absurd (by simpa using h) (hop c)
  | cons next rest => rwa [List.getLast?_cons_cons] at h

theorem blockStep_willRespond {s : State} (hexec : s.cmdst = .exec) (h : s.WillRespond) : (blockStep s).WillRespond := by
  obtain ⟨c, hlast⟩ := h hexec
  have left {op : MicroOp} {rest : List MicroOp} (hw : s.work = op :: rest) (hop : ∀ d, op ≠ .respond d) :
      rest.getLast? = some (.respond c) := getLast?_rest (hw ▸ hlast) hop
  intro hexec'
  obtain ⟨-, hstep⟩ | ⟨q, src, rest, hw, hstep⟩ | ⟨rest, hw, hstep⟩ | ⟨f, rest, hw, hstep⟩ | ⟨rest, hw, -, hstep⟩ |
    ⟨rest, -, -, hstep⟩ | ⟨rest, hw, hstep⟩ | ⟨rest, hw, hstep⟩ | ⟨d, rest, -, hstep⟩ := blockStep_cases s
  all_goals rw [hstep] at hexec' ⊢
  · exact ⟨c, hlast⟩
  · exact ⟨c, by simp [List.getLast?_append, left hw]⟩
  · exact ⟨c, left hw (by simp)⟩
  · exact ⟨c, left hw (by simp)⟩
  · exact ⟨c, left hw (by simp)⟩
  · exact ⟨c, hlast⟩
  · exact ⟨c, left hw (by simp)⟩
  · exact ⟨c, left hw (by simp)⟩
  · cases hexec'

theorem advance_willRespond {s : State} (h : s.WillRespond) (hexec : s.cmdst = .exec) : (advance s).WillRespond := by
  unfold advance
  split
  · rintro ⟨⟩
  · unfold microStep
    split
    · obtain ⟨hcmd, -, hwork⟩ := shifterStep_keeps (tick s)
      rw [State.WillRespond, hcmd, hwork]
      exact h
    · exact blockStep_willRespond (s := tick s) hexec h

/-- The small steps of a command, taken at once, are as many steps of the machine. -/
theorem core_run_drain (n : Nat) {s : State} (hwf : s.cfg.wf = true) (h : s.WillRespond) :
    ∃ k, core.run k s = .next (drain n s) := by
  induction n generalizing s with
  | zero => exact ⟨0, core_run_zero s⟩
  | succ n ih =>
    rw [drain]
    split
    · next hexec =>
      obtain ⟨k, hk⟩ := ih (by rwa [advance_cfg]) (advance_willRespond h hexec)
      exact ⟨k + 1, (core_run_succ (step_of_exec hwf hexec h) k).trans hk⟩
    · exact ⟨0, core_run_zero s⟩

/-- Settles O51: statements that end with a response still have it to come when the command is accepted. -/
theorem commandIsTheRunOfItsSteps : Obligations.CommandIsTheRunOfItsSteps := by
  intro s ops c hwf
  have hresponds : ({ s with cmdst := .exec, work := ops ++ [.respond c] } : State).WillRespond :=
    fun _ => ⟨c, List.getLast?_concat⟩
  exact core_run_drain (s := { s with cmdst := .exec, work := ops ++ [.respond c] }) _ hwf hresponds

/-! ## Every command answers a next state (40_transaction.md R136) -/

/-- Settles O45: `exec_effect` gives the state. -/
theorem noCommandStops : Obligations.NoCommandStops := by
  intro i s
  obtain ⟨t, ht, -⟩ := exec_effect i s
  exact ⟨t, ht⟩

/-! ## Reading STATUS (40_transaction.md R134) -/

/-- The two flags a polling host looks at. -/
theorem status_and_three (s : State) : s.status &&& 0x3 = (BitVec.ofBool s.bsy ++ BitVec.ofBool s.txe).setWidth 32 := by
  obtain ⟨htxe, hbsy, -⟩ := status_flags s
  apply BitVec.eq_of_getLsbD_eq
  intro k hk
  rw [BitVec.getLsbD_and]
  by_cases hlow : k < 2
  · interval_cases k
    · rw [htxe]
      cases s.bsy <;> cases s.txe <;> rfl
    · rw [hbsy]
      cases s.bsy <;> cases s.txe <;> rfl
  · have hhigh (x : BitVec 2) : (x.setWidth 32).getLsbD k = false := by
      rw [BitVec.getLsbD_setWidth, BitVec.getLsbD_of_ge x k (by omega), Bool.and_false]
    have hmask : (0x3 : Word).getLsbD k = false := hhigh 0x3
    rw [hmask, hhigh, Bool.and_false]

theorem hostMove_readStatus (s : State) : hostMove (.read (s.cfg.cmdBase + 4) 32) s = .next (readStatus s) := by
  simp [hostMove, portAccess, cmdAddr, statusAddr]

/-- Settles O13: the step is the host's read, and the polling condition by the two flags of STATUS. -/
theorem statusReadHasNoSideEffect : Obligations.StatusReadHasNoSideEffect := by
  refine ⟨fun s rest hwf hr hcmd hstill hprog => ?_, fun s rest hwf hr hcmd hmoving hturn hprog => ?_, fun s => ?_⟩
  · have hreset : s.resets.head? ≠ some 0 := by simp [hr]
    rw [step_of_hostTurn hwf hreset hcmd (.inl hstill) hprog, hstill, tick_of_noReset hr]
    exact hostMove_readStatus { s with program := rest }
  · have hreset : s.resets.head? ≠ some 0 := by simp [hr]
    have hcfg : (useTurn s).cfg = s.cfg := useTurn_cfg s
    have hreads : readStatus { useTurn s with program := rest } =
        { useTurn s with program := rest, reads := s.reads ++ [s.status] } := by
      unfold useTurn
      split <;> rfl
    rw [step_of_hostTurn hwf hreset hcmd (.inr hturn) hprog, hmoving, tick_of_noReset hr, ← hreads, ← hcfg]
    exact hostMove_readStatus { useTurn s with program := rest }
  · rw [status_and_three]
    cases s.bsy <;> cases s.txe <;> decide

/-! ## The shifter (40_transaction.md R126 to R129) -/

theorem shifterStep_load {s : State} (htxe : s.txe = false) (hbsy : s.bsy = false) : shifterStep s = load s := by
  simp [shifterStep, State.loadEnabled, htxe, hbsy]

theorem shifterStep_shift {s : State} (hbsy : s.bsy = true) (hcnt : s.cnt ≠ 0#5) : shifterStep s = shiftBit s := by
  simp [shifterStep, State.loadEnabled, State.shiftEnabled, hbsy, hcnt]

theorem shifterStep_finish {s : State} (hbsy : s.bsy = true) (hcnt : s.cnt = 0#5) : shifterStep s = finish s := by
  simp [shifterStep, State.loadEnabled, State.shiftEnabled, State.finishEnabled, hbsy, hcnt]

theorem shifterStep_of_done {s : State} (hdone : s.shiftDone = true) : shifterStep s = s :=
  shifterStep_of_not_enabled (by rw [shifterEnabled_eq, hdone]; rfl)

/-- Settles O20: a lemma for each of the steps, and what enables one excludes the others. -/
theorem shifterSteps : Obligations.ShifterSteps := by
  refine ⟨fun s => shifterStep_load, fun s low hbsy hcnt => ?_, fun s => shifterStep_finish,
    fun s hbsy htxe => shifterStep_of_done (shiftDone_iff.mpr ⟨hbsy, htxe⟩), fun s => ?_⟩
  · rw [shifterStep_shift hbsy hcnt, shiftBit_low low]
  · cases hbsy : s.bsy with
    | false => simp [State.shiftEnabled, State.finishEnabled, hbsy]
    | true => simp [State.loadEnabled, State.shiftEnabled, State.finishEnabled, hbsy]

/-- `s` after `n` shifts on a low line: the top n bits of SHR have gone out. -/
def shiftedOut (n : Nat) (s : State) : State :=
  { s with
    cnt := s.cnt - BitVec.ofNat 5 n, shr := s.shr <<< n
    trace := s.trace ++ (List.range n).map fun k => .bit (s.shr.getLsbD (15 - k))
    rxbits := s.rxbits ++ (List.range n).map fun k => s.shr.getLsbD (15 - k) }

theorem shiftedOut_succ {n : Nat} (hn : n < 16) {s : State} (low : s.ssn = false) :
    shiftBit (shiftedOut n s) = shiftedOut (n + 1) s := by
  have htop : (s.shr <<< n).getLsbD 15 = s.shr.getLsbD (15 - n) := shifted_top _ hn
  have hcnt : s.cnt - BitVec.ofNat 5 n - 1 = s.cnt - BitVec.ofNat 5 (n + 1) := by
    rw [BitVec.ofNat_add]; bv_omega
  rw [shiftBit_low (s := shiftedOut n s) low]
  simp only [shiftedOut, htop, hcnt, List.range_succ, List.map_append, List.append_assoc, BitVec.shiftLeft_add]
  rfl

theorem shifterStep_iterate_shift {s : State} (low : s.ssn = false) (hbsy : s.bsy = true) {n : Nat}
    (hn : n ≤ s.cnt.toNat) (hcnt : s.cnt.toNat ≤ 16) : shifterStep^[n] s = shiftedOut n s := by
  induction n with
  | zero => simp [shiftedOut]
  | succ n ih =>
    have hne : (shiftedOut n s).cnt ≠ 0#5 := by
      show s.cnt - BitVec.ofNat 5 n ≠ 0#5
      bv_omega
    rw [Function.iterate_succ_apply', ih (by omega), shifterStep_shift (s := shiftedOut n s) hbsy hne,
      shiftedOut_succ (by omega) low]

/-- Settles O21: sixteen shifts, one by one, and `shiftLeft_sixteen`. -/
theorem sixteenShiftsSendTheFrameMsbFirst : Obligations.SixteenShiftsSendTheFrameMsbFirst := by
  intro s low hbsy hcnt
  rw [shifterStep_iterate_shift low hbsy (by simp [hcnt]) (by simp [hcnt]), shiftedOut, hcnt, shiftLeft_sixteen]
  rfl

/-- A frame written and not yet loaded goes out whole. -/
theorem shifterRun_written {s : State} (low : s.ssn = false) (hwr : s.wr = true) (htxe : s.txe = false)
    (hbsy : s.bsy = false) (hrx : s.rxbits = []) :
    shifterRun (shifterLeft s) s = { s with
      txe := true, bsy := false, cnt := 0, shr := 0, rxbits := frameBits s.txdr
      trace := s.trace ++ (frameBits s.txdr).map .bit } := by
  have hbus : (load s).busInv := by simp [State.busInv, low, hwr]
  have hlink : (load s).linkInv := by simp [State.linkInv, State.sentBits, hwr, hrx]
  have hsent : (load s).sentBits = 0 := by simp [State.sentBits, hwr]
  have hdone : (load s).shiftDone = false := by simp [State.shiftDone]
  rw [← shifterRun_shifterStep, shifterStep_load htxe hbsy, shifterRun_settled hbus hlink, settled,
    if_neg (by simp [hdone]), hsent, List.drop_zero]
  rfl

/-! ## The bus primitives (40_transaction.md R121 to R124) -/

theorem raise_protocolFault {c : Resp} (h : c.isProtocolFault = true) (s : State) :
    raise c s = { s with faulted := true, resp := c, seq := 0, cmdst := .idle, work := [] } := by
  rw [raise, h, Bool.or_true]
  rfl

section
variable {s : State}

theorem exec_busSelect (high : s.ssn = true) : exec .busSelect s = .next (respond .ok (selectLine s)) :=
  congrArg _ (if_pos high)

theorem exec_busWrite (low : s.ssn = false) (hwr : s.wr = false) (f : Frame) :
    exec (.busWrite f) s = .next (respond .ok (writeTxdr f s)) := by
  simp [exec, execBusWrite, low, hwr]

theorem exec_busDeselect (low : s.ssn = false) (hwr : s.wr = true) (hdone : s.shiftDone = true) :
    exec .busDeselect s = .next (respond .ok (deselectLine s)) := by
  simp [exec, execBusDeselect, low, hwr, hdone]

theorem exec_busDeselect_midShift (low : s.ssn = false) (hwr : s.wr = true) (hdone : s.shiftDone = false) :
    exec .busDeselect s = .next (raise .deselectMidShift s) := by
  simp [exec, execBusDeselect, low, hwr, hdone]

/-- The receiver latches the frame whose bits it has. -/
theorem deselectLine_latches {f : Frame} (hbits : s.rxbits = frameBits f) :
    deselectLine s = { s with
      ssn := true, wr := false, trace := s.trace ++ [.ssRise], frames := s.frames ++ [.full f]
      drv := Memory.put s.drv (frameAddr f).toNat (frameData f) } := by
  simp [deselectLine, emit, receive, hbits, frameBits_length, frameOfBits_frameBits, latchFrame]

end

/-- Settles O16: the two branches of BUS_SELECT, and what R36 says of a high line. -/
theorem busSelectAssertsTheLine : Obligations.BusSelectAssertsTheLine := by
  refine ⟨rfl, fun s high => exec_busSelect high, fun s low => ?_, fun s hbus high => ?_,
    ⟨_, exec_busSelect rfl, rfl, rfl⟩⟩
  · rw [← raise_protocolFault (c := .selectWhileSelected) rfl]
    simp [exec, execBusSelect, low]
  · obtain ⟨hhigh, -⟩ := hbus
    obtain ⟨hwr, hbsy, htxe, -⟩ := hhigh high
    exact busIdle_iff.mpr ⟨high, hwr, hbsy, htxe⟩

/-- Settles O17: the errors are BUS_WRITE's branches, its effect is `exec_busWrite`. -/
theorem busWriteFillsTheTransmitRegister : Obligations.BusWriteFillsTheTransmitRegister := by
  refine ⟨fun f => rfl, fun s f high => ?_, fun s f low hwr => ?_, fun s f low hwr => exec_busWrite low hwr f,
    ⟨_, _, exec_busSelect rfl, exec_busWrite rfl rfl _, rfl⟩⟩
  · rw [← raise_protocolFault (c := .writeWithoutSelect) rfl]
    simp [exec, execBusWrite, high]
  · rw [← raise_protocolFault (c := .secondWrite) rfl]
    simp [exec, execBusWrite, low, hwr]

theorem exec_busWait_done {s : State} (hr : s.resets = []) (hdone : s.shiftDone = true) :
    exec .busWait s = .next (completed .ok s) := by
  obtain ⟨hbsy, htxe⟩ := shiftDone_iff.mp hdone
  have hleft : shifterLeft s = 0 := by simp [shifterLeft, hbsy, htxe]
  rw [exec_busWait hr, hleft, shifterRun]

/-- Under R36 a shift is under way only in a transaction that has its frame. -/
theorem shiftDone_of_noFrame {s : State} (hbus : s.busInv) (h : s.ssn = true ∨ s.wr = false) : s.shiftDone = true := by
  obtain ⟨hhigh, hwaiting, hbusy, -⟩ := hbus
  refine shiftDone_iff.mpr ?_
  obtain high | hwr := h
  · obtain ⟨-, hbsy, htxe, -⟩ := hhigh high
    exact ⟨hbsy, htxe⟩
  · cases hbsy : s.bsy <;> cases htxe : s.txe <;> simp_all

/-- The state BUS_SELECT; BUS_WRITE f leaves. -/
def openedWith (f : Frame) (s : State) : State := respond .ok (writeTxdr f (respond .ok (selectLine s)))

/-- The same with the frame's sixteen bits out. -/
def sentOut (f : Frame) (s : State) : State :=
  { openedWith f s with
    txe := true, bsy := false, cnt := 0, shr := 0, rxbits := frameBits f
    trace := (openedWith f s).trace ++ (frameBits f).map .bit }

section
variable {s : State} (hbsy : s.bsy = false) (f : Frame)
include hbsy

theorem shifterLeft_openedWith : shifterLeft (openedWith f s) = 18 := by simp [shifterLeft, openedWith, hbsy]

theorem shifterRun_openedWith : shifterRun 18 (openedWith f s) = sentOut f s := by
  rw [← shifterLeft_openedWith hbsy f]
  exact shifterRun_written (s := openedWith f s) rfl rfl rfl hbsy rfl

theorem exec_busWait_openedWith (hr : s.resets = []) : exec .busWait (openedWith f s) = .next (sentOut f s) := by
  rw [exec_busWait (s := openedWith f s) hr, shifterLeft_openedWith hbsy, shifterRun_openedWith hbsy]
  rfl

end

/-- Settles O18: with the shift done the wait is over at once, else the shifter runs to `settled`. -/
theorem busWaitWaitsOutTheShift : Obligations.BusWaitWaitsOutTheShift := by
  refine ⟨rfl, fun s hr hbsy htxe => exec_busWait_done hr (shiftDone_iff.mpr ⟨hbsy, htxe⟩),
    fun s hr hbus hlink hmoving => ?_, fun s hbus h => shiftDone_iff.mp (shiftDone_of_noFrame hbus h),
    fun s t f low hwr hbsy ht => ?_, ?_⟩
  · rw [exec_busWait hr, shifterRun_settled hbus hlink, settled, if_neg (fun hdone => hmoving (shiftDone_iff.mp hdone))]
    rfl
  · rw [exec_busWrite low hwr] at ht
    cases ht
    exact ⟨hbsy, rfl⟩
  · exact ⟨_, openedWith 0x0C01 State.reset, _, exec_busSelect rfl, exec_busWrite rfl rfl _,
      exec_busWait_openedWith rfl _ rfl, rfl, rfl⟩

/-! ## TRANSMIT (40_transaction.md R137) and the four primitives (R125) -/

theorem exec_transmit {s : State} (hidle : s.busIdle = true) (hr : s.resets = []) (f : Frame) :
    exec (.transmit f) s = .next (completed .ok (sentFrame s f)) := congrArg _ (sendFrame_sends f hidle hr)

theorem sentFrame_drvAt (s : State) (f : Frame) (a : Byte) :
    (sentFrame s f).drvAt a = if a = frameAddr f then some (frameData f) else s.drvAt a := by
  have haddr : (frameAddr f).toNat = a.toNat ↔ a = frameAddr f := by
    rw [BitVec.toNat_inj, eq_comm]
  rw [State.drvAt, sentFrame, Memory.lookup_put]
  exact if_congr haddr rfl rfl

/-- Settles O23: the state is `sentFrame`'s, and DRV is read at one address. -/
theorem transmitSendsOneFrame : Obligations.TransmitSendsOneFrame := by
  refine ⟨fun f => rfl, fun s f hidle hr => ⟨_, exec_transmit hidle hr f, rfl, sentFrame_drvAt s f⟩,
    fun s f hbusy => ?_⟩
  rw [← raise_protocolFault (c := .busNotIdle) rfl]
  exact congrArg _ (composite_not_idle _ hbusy)

/-- BUS_WAIT does the same however far the shifter has come. -/
theorem exec_busWait_iterate {s : State} (hr : s.resets = []) (k : Nat) :
    exec .busWait (shifterStep^[k] s) = exec .busWait s := by
  induction k generalizing s with
  | zero => rfl
  | succ k ih =>
    obtain ⟨-, hresets, -⟩ := shifterStep_keeps s
    rw [Function.iterate_succ_apply, ih (hresets.trans hr), exec_busWait_shifterStep hr]

/-- BUS_DESELECT latches the frame that has gone out: the state TRANSMIT leaves. -/
theorem exec_busDeselect_sentOut {s : State} (hidle : s.busIdle = true) (f : Frame) :
    exec .busDeselect (sentOut f s) = .next (completed .ok (sentFrame s f)) := by
  obtain ⟨hssn, hwr, hbsy, htxe⟩ := busIdle_iff.mp hidle
  have hlatch : deselectLine (sentOut f s) = _ := deselectLine_latches (f := f) rfl
  rw [exec_busDeselect rfl rfl rfl, hlatch]
  obtain ⟨fb, ssn, txdr, txe, bsy, shr, cnt, wr, initd, faulted, resp, cmdst, sq, list, work, trace, rxbits, frames, drv,
    cfg, program, reads, resets, sched, draws⟩ := s
  subst hssn hwr hbsy htxe
  simp [sentOut, openedWith, sentFrame, completed, txnEvents, respond]

/-- Settles O24: the wait sends what is left of the frame, and the deselect ends in TRANSMIT's state. -/
theorem fourPrimitivesEqualTransmit : Obligations.FourPrimitivesEqualTransmit := by
  intro s f k hidle _ hr
  obtain ⟨high, hwr, hbsy, -⟩ := busIdle_iff.mp hidle
  have hwait : exec .busWait (shifterStep^[k] (openedWith f s)) = .next (sentOut f s) :=
    (exec_busWait_iterate (s := openedWith f s) hr k).trans (exec_busWait_openedWith hbsy f hr)
  exact ⟨_, openedWith f s, _, _, exec_busSelect high, exec_busWrite (s := respond .ok (selectLine s)) rfl hwr f, hwait,
    exec_busDeselect_sentOut hidle f, exec_transmit hidle hr f, rfl, rfl, rfl, rfl⟩

/-- In a transaction whose frame has gone out the receiver has the frame written. -/
theorem rxbits_of_sent {s : State} (hlink : s.linkInv) (low : s.ssn = false) (hwr : s.wr = true) (hbsy : s.bsy = false)
    (htxe : s.txe = true) : s.rxbits = frameBits s.txdr := by
  obtain ⟨hrx, -⟩ := hlink
  have hsent : s.sentBits = 16 := by simp [State.sentBits, hwr, hbsy, htxe]
  rw [hrx low, hsent, List.take_of_length_le (by rw [frameBits_length])]

/-- Settles O19: the errors are BUS_DESELECT's branches; with the receiver in step it latches the frame written. -/
theorem busDeselectClosesTheTransaction : Obligations.BusDeselectClosesTheTransaction := by
  refine ⟨rfl, fun s high => ?_, fun s low hwr => ?_, fun s low hwr hmoving => ?_,
    fun s hlink low hwr hbsy htxe => ?_, completed .ok (sentFrame State.reset 0x0C01), ?_, rfl, rfl⟩
  · rw [← raise_protocolFault (c := .deselectNotSelected) rfl]
    simp [exec, execBusDeselect, high]
  · rw [← raise_protocolFault (c := .deselectEmpty) rfl]
    simp [exec, execBusDeselect, low, hwr]
  · have hdone : s.shiftDone = false := by
      obtain hbsy | htxe := hmoving
      · simp [State.shiftDone, hbsy]
      · simp [State.shiftDone, htxe]
    rw [← raise_protocolFault (c := .deselectMidShift) rfl]
    exact exec_busDeselect_midShift low hwr hdone
  · rw [exec_busDeselect low hwr (shiftDone_iff.mpr ⟨hbsy, htxe⟩),
      deselectLine_latches (rxbits_of_sent hlink low hwr hbsy htxe)]
    rfl
  · have hselect : exec .busSelect State.reset = _ := exec_busSelect rfl
    have hwrite : exec (.busWrite 0x0C01) _ = .next (openedWith 0x0C01 State.reset) := exec_busWrite rfl rfl _
    simp only [execSeq, hselect, hwrite, exec_busWait_openedWith (s := State.reset) rfl _ rfl,
      exec_busDeselect_sentOut (s := State.reset) rfl]

/-! ## A deselect without a wait (40_transaction.md R124, 95_test_vectors.md P5) -/

/-- `s` with the turns to come planned as `turns`. -/
def State.withSched (turns : List Turn) (s : State) : State := { s with sched := turns }

theorem emit_bit_withSched (turns : List Turn) (b : Bool) (s : State) :
    emit (.bit b) (s.withSched turns) = (emit (.bit b) s).withSched turns := by
  simp only [emit, receive, apply_ite (State.withSched turns)]
  rfl

theorem shiftBit_withSched (turns : List Turn) (s : State) :
    shiftBit (s.withSched turns) = (shiftBit s).withSched turns :=
  congrArg (fun u : State => { u with shr := s.shr <<< 1, cnt := s.cnt - 1 }) (emit_bit_withSched turns _ s)

/-- The shifter's steps neither read nor write the turns. -/
theorem shifterStep_withSched (turns : List Turn) (s : State) :
    shifterStep (s.withSched turns) = (shifterStep s).withSched turns := by
  obtain ⟨htxe, hbsy, h⟩ | ⟨hbsy, hcnt, h⟩ | ⟨hbsy, hcnt, h⟩ | ⟨hbsy, htxe, h⟩ := shifterStep_cases s <;> rw [h]
  · exact shifterStep_load (s := s.withSched turns) htxe hbsy
  · exact (shifterStep_shift (s := s.withSched turns) hbsy hcnt).trans (shiftBit_withSched turns s)
  · exact shifterStep_finish (s := s.withSched turns) hbsy hcnt
  · exact shifterStep_of_done (shiftDone_iff.mpr ⟨hbsy, htxe⟩)

theorem shifterRun_withSched (turns : List Turn) (n : Nat) (s : State) :
    shifterRun n (s.withSched turns) = (shifterRun n s).withSched turns := by
  induction n generalizing s with
  | zero => rfl
  | succ n ih => rw [shifterRun, shifterStep_withSched, ih, shifterRun]

/-- The turns that let the shifter take n steps: none where the host has no action left. -/
def shifterTurns (n : Nat) (s : State) : List Turn := if s.program = [] then [] else List.replicate n .shifter

theorem shifterTurns_of_program {s t : State} (h : t.program = s.program) (n : Nat) :
    shifterTurns n t = shifterTurns n s := by
  rw [shifterTurns, shifterTurns, h]

theorem shifterStep_withSched_keeps (turns : List Turn) (s : State) :
    (shifterStep (s.withSched turns)).cfg = s.cfg ∧ (shifterStep (s.withSched turns)).resets = s.resets ∧
      (shifterStep (s.withSched turns)).cmdst = s.cmdst ∧ (shifterStep (s.withSched turns)).program = s.program ∧
      (shifterStep (s.withSched turns)).sched = turns := by
  obtain ⟨hprogram, -, hresets⟩ := shifterStep_plan (s.withSched turns)
  obtain ⟨hcmd, -, -⟩ := shifterStep_keeps (s.withSched turns)
  exact ⟨shifterStep_cfg _, hresets, hcmd, hprogram, by rw [shifterStep_withSched]; rfl⟩

section
variable {s : State} (hwf : s.cfg.wf = true) (hr : s.resets = []) (hcmd : s.cmdst = .idle)
include hwf hr hcmd

theorem step_shifterTurn (hmoving : s.shifterEnabled = true) {n : Nat} {later : List Turn}
    (hsched : s.sched = shifterTurns (n + 1) s ++ later) :
    step s = .next (shifterStep (s.withSched (shifterTurns n s ++ later))) := by
  have hfree : step s = freeMove s := by
    simp [step, nextStep, hwf, hr, hcmd, tick_of_noReset hr]
  rw [hfree, freeMove]
  cases hprog : s.program with
  | nil =>
    have hsame : s.withSched (shifterTurns n s ++ later) = s := by
      simp only [shifterTurns, hprog, if_true] at hsched ⊢
      rw [State.withSched, ← hsched]
    simp only [hmoving, if_true, hsame]
  | cons a rest =>
    simp only [shifterTurns, hprog, reduceCtorEq, if_false, List.replicate_succ, List.cons_append] at hsched ⊢
    simp only [hmoving, if_true, nextTurn, useTurn, hsched]
    rfl

/-- Where its turns are planned, or the host has no action left, the shifter runs as far as it has steps. -/
theorem core_run_shifter {n : Nat} (hn : n ≤ shifterLeft s) {later : List Turn}
    (hsched : s.sched = shifterTurns n s ++ later) : core.run n s = .next ((shifterRun n s).withSched later) := by
  induction n generalizing s with
  | zero =>
    have hlater : s.sched = later := by simpa [shifterTurns] using hsched
    rw [core_run_zero, shifterRun, State.withSched, ← hlater]
  | succ n ih =>
    obtain ⟨m, hm⟩ : ∃ m, shifterLeft s = m + 1 := ⟨shifterLeft s - 1, by omega⟩
    have hmoving := shifterEnabled_of_shifterLeft hm
    have hleft : shifterLeft s = _ := shifterLeft_step (s := s.withSched (shifterTurns n s ++ later)) hmoving
    obtain ⟨hcfg', hr', hcmd', hprog', hsched'⟩ := shifterStep_withSched_keeps (shifterTurns n s ++ later) s
    have hturns := congrArg (· ++ later) (shifterTurns_of_program hprog' n)
    rw [core_run_succ (step_shifterTurn hwf hr hcmd hmoving hsched),
      ih (hcfg' ▸ hwf) (hr'.trans hr) (hcmd'.trans hcmd) (by omega) (hsched'.trans hturns.symm), shifterStep_withSched,
      shifterRun_withSched, shifterRun]
    rfl

end

theorem core_run_add {m : Nat} {s t : State} (h : core.run m s = .next t) (n : Nat) :
    core.run (m + n) s = core.run n t := by
  induction m generalizing s with
  | zero =>
    cases h
    rw [Nat.zero_add]
  | succ m ih =>
    rw [Nat.succ_add]
    simp only [Host.Core.run] at h ⊢
    split at h
    · exact ih h
    · cases h
    · cases h

section
variable {s : State} (hwf : s.cfg.wf = true) (hr : s.resets = []) (hcmd : s.cmdst = .idle) {rest : List HostAction}
include hwf hr hcmd

/-- A command word is the host's next action, and the shifter is still. -/
theorem step_command {w : Word} {i : Instr} (hprog : s.program = .write s.cfg.cmdBase 32 w :: rest)
    (hdecode : decode w = .ok i) (hdone : s.shiftDone = true) : step s = exec i { s with program := rest } := by
  have hstill : s.shifterEnabled = false := by rw [shifterEnabled_eq, hdone]; rfl
  have hport : decodePort (decide (s.cmdst = .collect)) w = .ok i := by rw [hcmd]; exact hdecode
  rw [step_takeWord_still hwf (by simp [hr]) (by simp [hcmd]) hprog hstill, tick_of_noReset hr]
  exact takeWord_legal rfl hport

theorem step_busSelect (hprog : s.program = .write s.cfg.cmdBase 32 0xF0000000 :: rest) (hidle : s.busIdle = true) :
    step s = .next (respond .ok (selectLine { s with program := rest })) := by
  obtain ⟨high, -, hbsy, htxe⟩ := busIdle_iff.mp hidle
  rw [step_command hwf hr hcmd hprog (decode_encode (i := .busSelect) rfl) (shiftDone_iff.mpr ⟨hbsy, htxe⟩)]
  exact exec_busSelect high

theorem step_busWrite {f : Frame} (hprog : s.program = .write s.cfg.cmdBase 32 (0xF1000000 ||| f.setWidth 32) :: rest)
    (low : s.ssn = false) (hwr : s.wr = false) (hdone : s.shiftDone = true) :
    step s = .next (respond .ok (writeTxdr f { s with program := rest })) := by
  rw [step_command hwf hr hcmd hprog (decode_encode (i := .busWrite f) rfl) hdone]
  exact exec_busWrite (s := { s with program := rest }) low hwr f

theorem core_run_openedWith {f : Frame}
    (hprog : s.program = .write s.cfg.cmdBase 32 0xF0000000 ::
      .write s.cfg.cmdBase 32 (0xF1000000 ||| f.setWidth 32) :: rest) (hidle : s.busIdle = true) :
    core.run 2 s = .next (openedWith f { s with program := rest }) := by
  obtain ⟨-, hwr, hbsy, htxe⟩ := busIdle_iff.mp hidle
  have hdone : s.shiftDone = true := shiftDone_iff.mpr ⟨hbsy, htxe⟩
  refine (core_run_succ (step_busSelect hwf hr hcmd hprog hidle) 1).trans
    (core_run_succ (step_busWrite ?_ ?_ rfl rfl rfl ?_ ?_) 0)
  · exact hwf
  · exact hr
  · exact hwr
  · exact hdone

/-- The host deselects while the shifter could move. -/
theorem step_busDeselect_midShift (hprog : s.program = .write s.cfg.cmdBase 32 0xF3000000 :: rest) {turns : List Turn}
    (hsched : s.sched = .host :: turns) (low : s.ssn = false) (hwr : s.wr = true) (hdone : s.shiftDone = false) :
    step s = .next (raise .deselectMidShift { s with sched := turns, program := rest }) := by
  have hmoving : s.shifterEnabled = true := by rw [shifterEnabled_eq, hdone]; rfl
  have hport : decodePort (decide (s.cmdst = .collect)) 0xF3000000 = .ok .busDeselect := by
    rw [hcmd]
    exact decode_encode (i := .busDeselect) rfl
  have hturn : useTurn s = { s with sched := turns } := by simp only [useTurn, hsched]
  rw [step_takeWord_turn hwf (by simp [hr]) (by simp [hcmd]) hprog hmoving (by simp [nextTurn, hsched]),
    tick_of_noReset hr, hturn]
  exact (takeWord_legal (u := { s with sched := turns, program := rest }) rfl hport).trans
    (exec_busDeselect_midShift low hwr hdone)

end

/-- With its eighteen turns the shifter sends a frame that was written and not yet loaded. -/
theorem core_run_frameOut {s : State} (hwf : s.cfg.wf = true) (hr : s.resets = []) (hcmd : s.cmdst = .idle)
    {later : List Turn} (hsched : s.sched = shifterTurns 18 s ++ later) (low : s.ssn = false) (hwr : s.wr = true)
    (htxe : s.txe = false) (hbsy : s.bsy = false) (hrx : s.rxbits = []) :
    core.run 18 s = .next { s with
      txe := true, bsy := false, cnt := 0, shr := 0, rxbits := frameBits s.txdr
      trace := s.trace ++ (frameBits s.txdr).map .bit, sched := later } := by
  have hleft : shifterLeft s = 18 := by simp [shifterLeft, htxe, hbsy]
  rw [core_run_shifter hwf hr hcmd (by omega) hsched, ← hleft, shifterRun_written low hwr htxe hbsy hrx]
  rfl

section
variable {s : State} {f : Frame} (hwf : s.cfg.wf = true) (hr : s.resets = []) (hidle : s.busIdle = true)
  (hprog : s.program = [.write s.cfg.cmdBase 32 0xF3000000])
include hwf hr hidle hprog

/-- The shift runs out before the host deselects: the frame is latched. -/
theorem core_run_deselect_late (hsched : s.sched = List.replicate 18 .shifter) :
    core.run 19 (openedWith f s) = .next (completed .ok (sentFrame { s with sched := [], program := [] } f)) := by
  obtain ⟨-, -, hbsy, -⟩ := busIdle_iff.mp hidle
  have hturns : (openedWith f s).sched = shifterTurns 18 (openedWith f s) ++ [] := by
    simp [shifterTurns, openedWith, hsched, hprog]
  have hshift : core.run 18 (openedWith f s) = .next ((sentOut f s).withSched []) :=
    core_run_frameOut (s := openedWith f s) hwf hr rfl hturns rfl rfl rfl hbsy rfl
  have hdeselect : step ((sentOut f s).withSched []) = exec .busDeselect (sentOut f { s with sched := [], program := [] }) :=
    step_command (s := (sentOut f s).withSched []) hwf hr rfl hprog (decode_encode (i := .busDeselect) rfl) rfl
  have hlatch := exec_busDeselect_sentOut (s := { s with sched := [], program := [] }) hidle f
  exact (core_run_add hshift 1).trans (core_run_succ (hdeselect.trans hlatch) 0)

/-- The host deselects before the shift begins: the transaction stays open, and the frame goes out in it. -/
theorem core_run_deselect_early (hsched : s.sched = [.host]) :
    core.run 19 (openedWith f s) = .next { sentOut f { s with sched := [], program := [] } with
      faulted := true, resp := .deselectMidShift } := by
  obtain ⟨-, -, hbsy, -⟩ := busIdle_iff.mp hidle
  have hdone : (openedWith f s).shiftDone = false := by simp [openedWith, State.shiftDone]
  have hdeselect := step_busDeselect_midShift (s := openedWith f s) hwf hr rfl hprog hsched rfl rfl hdone
  rw [raise_protocolFault rfl] at hdeselect
  refine (core_run_succ hdeselect 18).trans (core_run_frameOut ?_ ?_ rfl (later := []) rfl rfl rfl rfl ?_ rfl)
  · exact hwf
  · exact hr
  · exact hbsy

end

/-- Settles O26: eighteen turns for the shifter before the host's last action, or that action first. -/
theorem deselectWithoutWaitHasTwoOutcomes : Obligations.DeselectWithoutWaitHasTwoOutcomes := by
  rintro s f hwf ⟨hcmd, -, -, hidle, -, hfault⟩ hr
  have hopen (turns : List Turn) := core_run_openedWith (f := f) (s := { s with
    sched := turns
    program := [.write s.cfg.cmdBase 32 0xF0000000, .write s.cfg.cmdBase 32 (0xF1000000 ||| f.setWidth 32),
      .write s.cfg.cmdBase 32 0xF3000000] }) hwf hr hcmd rfl hidle
  obtain ⟨high, -, hbsy, htxe⟩ := busIdle_iff.mp hidle
  refine ⟨⟨_, _, _, (core_run_add (hopen _) 19).trans (core_run_deselect_late ?_ ?_ ?_ rfl rfl), ?_, rfl⟩,
    ⟨_, _, _, (core_run_add (hopen _) 19).trans (core_run_deselect_early ?_ ?_ ?_ rfl rfl), ?_, rfl, rfl, rfl, rfl⟩⟩
  · exact hwf
  · exact hr
  · exact hidle
  · exact ⟨⟨rfl, rfl, hbsy, htxe⟩, hfault, high⟩
  · exact hwf
  · exact hr
  · exact hidle
  · exact ⟨rfl, rfl, rfl, rfl⟩

end Sys2Proof.Machine
end

section
/-! PROOFS. The family 41_driver_protocol.md: the register writes (R160 to R165, R171), WRITE_ROW and its operand (R166,
R167), MATRIX_INIT (R168) and MATRIX_CLEAR (R170), and what SEQ holds in the transactions of a composite command (R21,
R120, R137; 43_render.md R220 to R224). -/

namespace Sys2Proof.Machine

/-! ## One fixed frame (41_driver_protocol.md R160 to R165) -/

theorem encode_writeReg (a v : Byte) :
    encode (.writeReg a v) = 0x20000000 ||| (a.setWidth 32 <<< 8) ||| v.setWidth 32 := by
  rw [BitVec.or_assoc, shifted_or_setWidth]
  rfl

/-- A composite command on a bus that is not idle leaves RESP and FAULT only (60_exceptions.md R247). -/
theorem composite_busNotIdle (ops : List MicroOp) {s : State} (h : s.busIdle = false) :
    composite ops s = { s with faulted := true, resp := .busNotIdle, seq := 0, cmdst := .idle, work := [] } :=
  (composite_not_idle ops h).trans (raise_protocolFault rfl s)

/-- WRITE_REG and the configuration commands are composite commands of one fixed frame. -/
theorem exec_registerWrite {i : Instr} {a v : Byte} {l : BitVec 4} {b c : Bool}
    (hi : i ∈ [.writeReg a v, .decodeOff, .setIntensity l, .scanLimitAll, .setOpmode b, .setDisplayTest c]) (s : State) :
    ∃ f, exec i s = .next (sendFrame f s) := by
  simp only [List.mem_cons, List.not_mem_nil, or_false] at hi
  obtain rfl | rfl | rfl | rfl | rfl | rfl := hi
  all_goals exact ⟨_, rfl⟩

/-- Settles O27: each command sends the frame its definition names, by `sendFrame_sends`. -/
theorem registerWritesSendTheirFrame : Obligations.RegisterWritesSendTheirFrame := by
  refine ⟨encode_writeReg, rfl, fun _ => rfl, rfl, rfl, rfl, rfl, rfl, ?_, fun _ _ _ => rfl, fun s a v hidle hr => ?_,
    fun s hidle hr => ?_⟩
  · rintro s i hbusy ⟨a, v, l, b, c, hi⟩
    obtain ⟨f, hf⟩ := exec_registerWrite hi s
    rw [hf, sendFrame, composite_busNotIdle _ hbusy]
  · exact exec_transmit hidle hr (a ++ v)
  · have sends (f : Frame) := exec_transmit hidle hr f
    exact ⟨sends (decodeOffFrame s.cfg), fun l => sends (intensityFrame s.cfg l), sends (scanLimitFrame s.cfg),
      sends (opmodeFrame s.cfg true), sends (opmodeFrame s.cfg false), sends (displayTestFrame s.cfg true),
      sends (displayTestFrame s.cfg false)⟩

/-! ## A row operand (41_driver_protocol.md R166, R167; 43_render.md R223) -/

theorem rowOperand_of_rowNumber {row : BitVec 4} {r : Row} (h : row.toNat = rowNumber r) : rowOperand row = some r := by
  have hslot : ∀ r : Row, slotOf (rowNumber r) = some r := by decide
  rw [rowOperand, h, hslot]

theorem rowAddr_of_rowNumber {row : BitVec 4} {r : Row} (h : row.toNat = rowNumber r) : rowAddr r = row.setWidth 8 := by
  rw [rowAddr, ← h, BitVec.ofNat_toNat]

/-- The operands 1..8 are the rows' numbers. -/
theorem exists_rowNumber {row : BitVec 4} (hlo : 1 ≤ row.toNat) (hhi : row.toNat ≤ 8) :
    ∃ r : Row, row.toNat = rowNumber r :=
  ⟨⟨row.toNat - 1, by omega⟩, (Nat.sub_add_cancel hlo).symm⟩

theorem rowOperand_eq_none {row : BitVec 4} (h : row = 0 ∨ 9 ≤ row.toNat) : rowOperand row = none := by
  refine dif_neg ?_
  obtain rfl | hhi := h
  · decide
  · omega

section
variable {s : State} {row : BitVec 4} (ops : Row → List MicroOp)

theorem rowCommand_busNotIdle (h : s.busIdle = false) :
    rowCommand row ops s = { s with faulted := true, resp := .busNotIdle, seq := 0, cmdst := .idle, work := [] } := by
  rw [rowCommand, h, ← raise_protocolFault (c := .busNotIdle) rfl]
  rfl

/-- INVALID_ROW is no protocol fault: it leaves RESP only. -/
theorem rowCommand_invalidRow (hidle : s.busIdle = true) (h : row = 0 ∨ 9 ≤ row.toNat) :
    rowCommand row ops s = { s with resp := .invalidRow, seq := 0, cmdst := .idle, work := [] } := by
  rw [rowCommand, if_pos hidle, rowOperand_eq_none h]
  simp [raise, respond, Resp.isProtocolFault]

/-- With a row in its operand it is a composite command, whatever the bus. -/
theorem rowCommand_row {r : Row} (h : row.toNat = rowNumber r) : rowCommand row ops s = composite (ops r) s := by
  rw [rowCommand, rowOperand_of_rowNumber h]
  cases hidle : s.busIdle with
  | false => exact (composite_not_idle _ hidle).symm
  | true => rfl

end

theorem exec_writeRow_eq_writeReg {row : BitVec 4} (hlo : 1 ≤ row.toNat) (hhi : row.toNat ≤ 8) (v : Byte) (s : State) :
    exec (.writeRow row v) s = exec (.writeReg (row.setWidth 8) v) s := by
  obtain ⟨r, hrow⟩ := exists_rowNumber hlo hhi
  rw [exec_writeRow, rowCommand_row _ hrow, rowAddr_of_rowNumber hrow]
  rfl

/-- Settles O28: the configuration commands' frames are those of WRITE_REG by definition, a row's by its number. -/
theorem configurationCommandsAreRegisterWrites : Obligations.ConfigurationCommandsAreRegisterWrites :=
  fun s => ⟨rfl, fun _ => rfl, rfl, rfl, rfl, rfl, rfl, fun _ v hlo hhi => exec_writeRow_eq_writeReg hlo hhi v s⟩

/-- Settles O29: the two errors of a command with a row operand; with a row 1..8 it is a WRITE_REG. -/
theorem writeRowSendsOneRow : Obligations.WriteRowSendsOneRow :=
  ⟨fun _ _ => rfl, fun _ _ _ hbusy => congrArg _ (rowCommand_busNotIdle _ hbusy),
    fun _ _ _ hidle hrow => congrArg _ (rowCommand_invalidRow _ hidle hrow),
    fun s _ v hidle hr hlo hhi => (exec_writeRow_eq_writeReg hlo hhi v s).trans (exec_transmit hidle hr _)⟩

/-! ## MATRIX_INIT and MATRIX_CLEAR (41_driver_protocol.md R168, R170) -/

/-- Fixed frames as transactions, with SEQ counting from 1. -/
def numbered (fs : List Frame) : List (Nat × FrameSource) := fs.mapIdx fun n f => (n + 1, .const f)

theorem txnFrames_numbered (s : State) (fs : List Frame) : txnFrames s (numbered fs) = fs := by
  refine List.ext_getElem? fun k => ?_
  rw [txnFrames, List.getElem?_map, numbered, List.getElem?_mapIdx]
  cases fs[k]? <;> rfl

theorem numbered_getElem? {fs : List Frame} {k : Nat} {f : Frame} (h : fs[k]? = some f) :
    (numbered fs)[k]? = some (k + 1, .const f) := by
  rw [numbered, List.getElem?_mapIdx, h]
  rfl

/-- The eight zero rows, in order. -/
theorem clearFrames_eq :
    allRows.map clearFrame = [0x0100, 0x0200, 0x0300, 0x0400, 0x0500, 0x0600, 0x0700, 0x0800] := by decide

/-- R168's thirteen frames, in order. -/
theorem initSequence_eq (c : Config) :
    initFrames c ++ allRows.map clearFrame =
      [c.regDecode ++ c.valDecodeOff, c.regIntensity ++ intensityPayload c c.initIntensity,
       c.regScanLimit ++ c.valScanAll8, c.regShutdown ++ c.valNormal, c.regDisplayTest ++ c.valTestOff,
       0x0100, 0x0200, 0x0300, 0x0400, 0x0500, 0x0600, 0x0700, 0x0800] := by
  rw [clearFrames_eq]
  rfl

theorem initItems_eq (c : Config) : initItems c = numbered (initFrames c ++ allRows.map clearFrame) := rfl

theorem matrixClearSteps_eq : matrixClearSteps = txnOps (numbered (allRows.map clearFrame)) := rfl

theorem exec_matrixInit (s : State) : exec .matrixInit s = .next (composite (matrixInitSteps s.cfg) s) := rfl

theorem exec_matrixClear (s : State) : exec .matrixClear s = .next (composite matrixClearSteps s) := rfl

/-- Settles O30: thirteen numbered frames, then INITD, by `composite_sends_init`. -/
theorem matrixInitRunsTheSequence : Obligations.MatrixInitRunsTheSequence := by
  refine ⟨rfl, fun s hbusy => congrArg _ (composite_busNotIdle _ hbusy), fun s hidle hr => ?_⟩
  rw [exec_matrixInit, matrixInitSteps_eq, composite_sends_init _ hidle hr, initItems_eq, txnFrames_numbered,
    initSequence_eq]

theorem sentFrames_fb (s : State) (fs : List Frame) : (sentFrames s fs).fb = s.fb := by
  induction fs generalizing s with
  | nil => rfl
  | cons f fs ih => exact ih (sentFrame s f)

/-- Settles O31: eight numbered frames, by `composite_sends`. -/
theorem matrixClearSendsEightZeroRows : Obligations.MatrixClearSendsEightZeroRows := by
  refine ⟨rfl, fun s hbusy => congrArg _ (composite_busNotIdle _ hbusy), fun s hidle hr => ⟨_, ?_, rfl, sentFrames_fb s _⟩⟩
  rw [exec_matrixClear, matrixClearSteps_eq, composite_sends _ hidle hr, txnFrames_numbered, clearFrames_eq]

/-! ## Within one transaction (40_transaction.md R120) -/

/-- Where a transaction of `f` stands with `n` of its small steps left, and how the bus then is; `rest` is what the
command does after it. From the write on TXDR holds the frame. -/
inductive TxnPhase (f : Frame) (rest : List MicroOp) : Nat → State → Prop where
  | select {s : State} (work : s.work = txnSteps f ++ rest) (idle : s.busIdle = true) : TxnPhase f rest 22 s
  | write {s : State} (work : s.work = .write f :: .wait :: .deselect :: rest) (done : s.shiftDone = true) :
    TxnPhase f rest 21 s
  | wait {s : State} {n : Nat} (work : s.work = .wait :: .deselect :: rest) (txdr : s.txdr = f)
    (left : n = shifterLeft s + 2) : TxnPhase f rest n s
  | deselect {s : State} (work : s.work = .deselect :: rest) (txdr : s.txdr = f) (done : s.shiftDone = true) :
    TxnPhase f rest 1 s
  | closed {s : State} (txdr : s.txdr = f) : TxnPhase f rest 0 s

theorem microStep_of_done {s : State} (h : s.shiftDone = true) : microStep s = blockStep s := by
  rw [microStep, shifterEnabled_eq, h]
  rfl

theorem microStep_of_enabled {s : State} (h : s.shifterEnabled = true) : microStep s = shifterStep s := if_pos h

theorem shiftDone_of_busIdle {s : State} (h : s.busIdle = true) : s.shiftDone = true := by
  obtain ⟨-, -, hbsy, htxe⟩ := busIdle_iff.mp h
  exact shiftDone_iff.mpr ⟨hbsy, htxe⟩

@[simp] theorem shifterStep_txdr (s : State) : (shifterStep s).txdr = s.txdr := by
  obtain ⟨-, -, h⟩ | ⟨-, -, h⟩ | ⟨-, -, h⟩ | ⟨-, -, h⟩ := shifterStep_cases s <;> simp [h]

/-- A command is executing with SEQ at `seq`, and no reset is on its way. -/
structure RunningAt (seq : Nat) (s : State) : Prop extends Running s where
  seq_eq : s.seq = seq

/-- A small step goes one phase on, and the command stays in EXEC with the same SEQ. -/
theorem TxnPhase.next {f : Frame} {rest : List MicroOp} {n seq : Nat} {s : State} (h : TxnPhase f rest (n + 1) s)
    (hrun : RunningAt seq s) : TxnPhase f rest n (microStep s) ∧ RunningAt seq (microStep s) := by
  obtain ⟨⟨hexec, hr⟩, hs⟩ := hrun
  cases h with
  | select work idle =>
    have hstep : microStep s = { selectLine s with work := .write f :: .wait :: .deselect :: rest } := by
      rw [microStep_idle idle, blockStep, work]
      rfl
    have hdone := shiftDone_of_busIdle idle
    rw [hstep]
    exact ⟨.write rfl hdone, ⟨hexec, hr⟩, hs⟩
  | write work done =>
    obtain ⟨hbsy, -⟩ := shiftDone_iff.mp done
    have hstep : microStep s = { writeTxdr f s with work := .wait :: .deselect :: rest } := by
      rw [microStep_of_done done, blockStep, work]
    rw [hstep]
    exact ⟨.wait rfl rfl (by simp [shifterLeft, hbsy]), ⟨hexec, hr⟩, hs⟩
  | wait work txdr left =>
    cases hdone : s.shiftDone with
    | false =>
      have hen : s.shifterEnabled = true := by rw [shifterEnabled_eq, hdone]; rfl
      obtain ⟨hcmd, hresets, hwork⟩ := shifterStep_keeps s
      obtain ⟨-, -, -, -, hseq, -⟩ := shifterStep_frame s
      have hleft := shifterLeft_step hen
      rw [microStep_of_enabled hen]
      exact ⟨.wait (hwork.trans work) ((shifterStep_txdr s).trans txdr) (by omega),
        ⟨hcmd.trans hexec, hresets.trans hr⟩, hseq.trans hs⟩
    | true =>
      obtain ⟨hbsy, htxe⟩ := shiftDone_iff.mp hdone
      obtain rfl : n = 1 := by simpa [shifterLeft, hbsy, htxe] using left
      have hstep : microStep s = { s with work := .deselect :: rest } := by
        rw [microStep_of_done hdone, blockStep, work]
        exact if_pos hdone
      rw [hstep]
      exact ⟨.deselect rfl txdr hdone, ⟨hexec, hr⟩, hs⟩
  | deselect work txdr done =>
    have hstep : microStep s = { deselectLine s with work := rest } := by
      rw [microStep_of_done done, blockStep, work]
    rw [hstep]
    exact ⟨.closed ((deselectLine_txdr s).trans txdr),
      ⟨(deselectLine_cmdst s).trans hexec, (deselectLine_resets s).trans hr⟩, (deselectLine_seq s).trans hs⟩

theorem TxnPhase.txdr_eq {f : Frame} {rest : List MicroOp} {n : Nat} {s : State} (h : TxnPhase f rest n s)
    (hn : n ≤ 20) : s.txdr = f := by
  cases h with
  | select => omega
  | write => omega
  | wait _ txdr _ => exact txdr
  | deselect _ txdr _ => exact txdr
  | closed txdr => exact txdr

/-- The small steps of a transaction, counted from its start. -/
theorem drain_txnPhase {s : State} (h : Running s) (hidle : s.busIdle = true) {seq : Nat} {src : FrameSource}
    {rest : List MicroOp} (hw : s.work = .start seq src :: rest) {n : Nat} (hn : n ≤ 22) :
    TxnPhase (sourceFrame s src) rest (22 - n) (drain (n + 1) s) ∧ RunningAt seq (drain (n + 1) s) := by
  induction n with
  | zero =>
    have hstep : drain 1 s = { s with seq := seq, work := txnSteps (sourceFrame s src) ++ rest } := by
      rw [drain_succ h.noReset h.exec, microStep_idle hidle, blockStep, hw]
      rfl
    rw [hstep]
    exact ⟨.select rfl hidle, ⟨h.exec, h.noReset⟩, rfl⟩
  | succ n ih =>
    obtain ⟨hphase, hrun⟩ := ih (by omega)
    rw [show 22 - n = 22 - (n + 1) + 1 by omega] at hphase
    rw [drain_add (n + 1) 1, drain_succ hrun.noReset hrun.exec, drain]
    exact hphase.next hrun

/-! ## Within a command (20_memory.md R66; log 1) -/

/-- As long as the command is not over, its small steps are steps of the machine, one by one. -/
theorem core_run_eq_drain (n : Nat) {s : State} (hwf : s.cfg.wf = true) (h : s.WillRespond)
    (hexec : (drain n s).cmdst = .exec) : core.run n s = .next (drain n s) := by
  induction n generalizing s with
  | zero => exact core_run_zero s
  | succ n ih =>
    have hs : s.cmdst = .exec := by
      by_contra hne
      exact hne (by rwa [drain_not_exec hne] at hexec)
    rw [drain, if_pos hs] at hexec ⊢
    exact (core_run_succ (step_of_exec hwf hs h) n).trans
      (ih (by rwa [advance_cfg]) (advance_willRespond h hs) hexec)

/-- A command on its way: accepted, with the transactions of `items` and then the statements of `tail` to run. -/
def State.accepted (s : State) (items : List (Nat × FrameSource)) (tail : List MicroOp) : State :=
  { s with cmdst := .exec, work := txnOps items ++ tail }

/-- A command that ends with its response still has it to come when it is accepted. -/
theorem accepted_willRespond (s : State) (items : List (Nat × FrameSource)) {tail : List MicroOp} {c : Resp}
    (h : tail.getLast? = some (.respond c)) : (s.accepted items tail).WillRespond :=
  fun _ => ⟨c, by simp [State.accepted, List.getLast?_append, h]⟩

theorem SameButCommand.fb_eq {u s : State} (h : SameButCommand u s) : u.fb = s.fb :=
  (congrArg State.fb (h .ok) :)

section
variable {s : State} (hidle : s.busIdle = true) (hr : s.resets = []) {items : List (Nat × FrameSource)} {k seq : Nat}
  {src : FrameSource} (hk : items[k]? = some (seq, src))
include hidle hr hk

/-- With k transactions run the next one is to start, and its source still gives the frame it gave at the outset
(43_render.md R221). -/
theorem drain_accepted (tail : List MicroOp) :
    ∃ u rest, drain (23 * k) (s.accepted items tail) = u ∧ Running u ∧ u.busIdle = true ∧
      u.work = .start seq src :: rest ∧ sourceFrame u src = sourceFrame s src := by
  obtain ⟨hlt, hget⟩ := List.getElem?_eq_some_iff.mp hk
  have hsplit : items = items.take k ++ (seq, src) :: items.drop (k + 1) := by
    rw [← hget, List.cons_getElem_drop_succ, List.take_append_drop]
  have hwork : txnOps items ++ tail =
      txnOps (items.take k) ++ .start seq src :: (txnOps (items.drop (k + 1)) ++ tail) := by
    conv_lhs => rw [hsplit]
    simp [txnOps]
  obtain ⟨u, hu, hrun, hidle', hw, hsame⟩ :=
    run_txns (items.take k) (.start seq src :: (txnOps (items.drop (k + 1)) ++ tail)) hidle hr
  rw [List.length_take_of_le hlt.le, ← hwork] at hu
  exact ⟨u, _, hu, hrun, hidle', hw, sourceFrame_of_fb (hsame.fb_eq.trans (sentFrames_fb s _)) src⟩

/-- In every small step of the (k+1)st transaction SEQ is that transaction's, and from its write on TXDR is its frame. -/
theorem core_run_within_txn (hwf : s.cfg.wf = true) {tail : List MicroOp} {c : Resp}
    (htail : tail.getLast? = some (.respond c)) {j : Nat} (hj : 1 ≤ j) (hj' : j ≤ 23) :
    ∃ t : State, core.run (23 * k + j) (s.accepted items tail) = .next t ∧ t.cmdst = .exec ∧ t.seq = seq ∧
      (3 ≤ j → t.txdr = sourceFrame s src) := by
  obtain ⟨u, rest, hu, hrun, hidle', hw, hsrc⟩ := drain_accepted hidle hr hk tail
  obtain ⟨n, rfl⟩ : ∃ n, j = n + 1 := ⟨j - 1, by omega⟩
  obtain ⟨hphase, ⟨hexec, -⟩, hseq⟩ := drain_txnPhase hrun hidle' hw (n := n) (by omega)
  have hdrain : drain (23 * k + (n + 1)) (s.accepted items tail) = drain (n + 1) u := by rw [drain_add, hu]
  rw [← hdrain] at hphase hexec hseq
  exact ⟨_, core_run_eq_drain _ hwf (accepted_willRespond s items htail) hexec, hexec, hseq,
    fun _ => (hphase.txdr_eq (by omega)).trans hsrc⟩

end

/-! ## The transactions of each command (43_render.md R220 to R224) -/

/-- One transaction per row, with SEQ holding the row being sent. -/
def rowItems (mask : Byte) : List (Nat × FrameSource) := allRows.map fun r => (rowNumber r, .row r mask)

theorem sendRows_eq (mask : Byte) : sendRows mask = txnOps (rowItems mask) := rfl

theorem rowItems_getElem? (mask : Byte) (r : Row) : (rowItems mask)[r.val]? = some (rowNumber r, .row r mask) := by
  have hrow : ∀ r : Row, allRows[r.val]? = some r := by decide
  rw [rowItems, List.getElem?_map, hrow]
  rfl

theorem composite_idle (ops : List MicroOp) {s : State} (h : s.busIdle = true) :
    composite ops s = runCommand (ops ++ [.respond .ok]) s := if_pos h

theorem exec_renderRow_row {row : BitVec 4} {r : Row} (h : row.toNat = rowNumber r) (s : State) :
    exec (.renderRow row) s = .next (composite (renderRowSteps r) s) := by
  rw [exec_renderRow, rowCommand_row _ h]

/-- Settles O58: each command's statements are transactions and its response, with INITD before it in MATRIX_INIT, and
`core_run_within_txn` says what SEQ and TXDR hold in each of them. -/
theorem sequenceNumberFollowsTheTransactions : Obligations.SequenceNumberFollowsTheTransactions := by
  constructor
  · intro s hidle
    have runs (ops : List MicroOp) :=
      congrArg (Host.Outcome.next (φ := Fault) (ρ := Refusal)) (composite_idle ops hidle)
    exact ⟨runs _, runs _, runs _, fun c => runs _, fun row r hrow => (exec_renderRow_row hrow s).trans (runs _),
      fun f => runs _⟩
  · intro s ops k seq f j hwf hidle hr hj hj' hops
    have within {items : List (Nat × FrameSource)} {src : FrameSource} (hk : items[k]? = some (seq, src))
        {tail : List MicroOp} {c : Resp} (htail : tail.getLast? = some (.respond c)) :=
      core_run_within_txn hidle hr hk hwf htail hj hj'
    obtain ⟨rfl, rfl, hf⟩ | ⟨rfl, rfl, hf⟩ | ⟨mask, row, rfl, rfl, rfl, rfl⟩ | ⟨row, rfl, rfl, rfl, rfl⟩ |
      ⟨rfl, rfl, rfl, -⟩ := hops
    · rw [← initSequence_eq] at hf
      rw [matrixInitSteps_eq, List.append_assoc]
      exact within (numbered_getElem? hf) rfl
    · rw [← clearFrames_eq] at hf
      rw [matrixClearSteps_eq]
      exact within (numbered_getElem? hf) rfl
    · rw [sendRows_eq]
      exact within (rowItems_getElem? mask row) rfl
    · have hwhole : s.readRow row &&& 0xFF = s.readRow row := BitVec.and_allOnes
      rw [← hwhole]
      exact within (items := [(1, .row row 0xFF)]) rfl rfl
    · exact within (items := [(0, .const f)]) rfl rfl

end Sys2Proof.Machine
end

section
/-! PROOFS. The family 42_bitmap.md: the header and the data words of TRANSLATE_LIST (R200), a list that executes (R201,
R202), its laws (R203), and which commands write the frame buffer (R205). -/

namespace Sys2Proof.Machine

/-! ## The header and the data words (42_bitmap.md R200) -/

theorem exec_translateList_zero (s : State) : exec (.translateList 0) s = .next (respond .ok s) := rfl

theorem exec_translateList {n : Byte} (hn : n ≠ 0) (s : State) :
    exec (.translateList n) s = .next { s with list := ⟨n, []⟩, cmdst := .collect } := congrArg _ (if_neg hn)

section
variable {s : State} (hcmd : s.cmdst = .collect) (w : Word)
include hcmd

theorem exec_translateWord_more (hmore : s.list.words.length + 1 ≠ s.list.count.toNat) :
    exec (.translateWord w) s = .next { s with list := ⟨s.list.count, s.list.words ++ [w]⟩ } := by
  simp [exec, execTranslateWord, hcmd, hmore]

theorem exec_translateWord_last (hlast : s.list.words.length + 1 = s.list.count.toNat) :
    exec (.translateWord w) s =
      .next (translate (s.list.words ++ [w]) { s with cmdst := .exec, list := .empty }) := by
  simp [exec, execTranslateWord, hcmd, hlast]

end

/-- Settles O33: one lemma per branch of the two commands. -/
theorem translateListCollectsItsWords : Obligations.TranslateListCollectsItsWords :=
  ⟨exec_translateList_zero, fun s _ hn => exec_translateList hn s, fun _ w hcmd => exec_translateWord_more hcmd w⟩

/-! ## The coordinates of a list (30_encoding.md R98; 42_bitmap.md R202, R204) -/

theorem slotOf_eq_some_iff {n : Nat} {r : Row} : slotOf n = some r ↔ n = rowNumber r := by
  have hr := r.isLt
  simp only [slotOf, rowNumber, Option.dite_none_right_eq_some, Option.some.injEq, Fin.ext_iff]
  constructor
  · rintro ⟨h, heq⟩
    omega
  · rintro rfl
    exact ⟨by omega, rfl⟩

theorem slotOf_eq_none_iff {n : Nat} : slotOf n = none ↔ ¬(1 ≤ n ∧ n ≤ 8) := by simp [slotOf]

theorem pixelOf_eq_some_iff {w : Word} {p : Pixel} :
    pixelOf w = some p ↔ (xField w).toNat = p.col.val + 1 ∧ (yField w).toNat = rowNumber p.row := by
  rw [← rowNumber, ← slotOf_eq_some_iff, ← slotOf_eq_some_iff, pixelOf]
  obtain ⟨c, r⟩ := p
  cases slotOf (xField w).toNat <;> cases slotOf (yField w).toNat <;> simp

theorem pixelOf_eq_none_iff {w : Word} :
    pixelOf w = none ↔ ¬(1 ≤ (xField w).toNat ∧ (xField w).toNat ≤ 8 ∧ 1 ≤ (yField w).toNat ∧ (yField w).toNat ≤ 8) := by
  have hx := slotOf_eq_none_iff (n := (xField w).toNat)
  have hy := slotOf_eq_none_iff (n := (yField w).toNat)
  rw [← and_assoc, not_and_or, ← hx, ← hy, pixelOf]
  cases slotOf (xField w).toNat <;> cases slotOf (yField w).toNat <;> simp

theorem pixelsOf_cons (w : Word) (ws : List Word) :
    pixelsOf (w :: ws) = (pixelOf w).bind fun p => (pixelsOf ws).map (p :: ·) := by
  rw [pixelsOf]
  cases pixelOf w <;> cases pixelsOf ws <;> rfl

/-- A list's pixels are those of its words, in order. -/
theorem pixelsOf_eq_some_iff {ws : List Word} {ps : List Pixel} :
    pixelsOf ws = some ps ↔ ws.map pixelOf = ps.map some := by
  induction ws generalizing ps with
  | nil => cases ps <;> simp [pixelsOf]
  | cons w ws ih =>
    cases ps <;> simp [pixelsOf_cons, Option.bind_eq_some_iff, ih]

theorem pixelsOf_append {ws vs : List Word} {ps qs : List Pixel} (hps : pixelsOf ws = some ps)
    (hqs : pixelsOf vs = some qs) : pixelsOf (ws ++ vs) = some (ps ++ qs) := by
  rw [pixelsOf_eq_some_iff] at *
  rw [List.map_append, List.map_append, hps, hqs]

theorem mem_pixels_iff {ws : List Word} {ps : List Pixel} (hps : pixelsOf ws = some ps) (p : Pixel) :
    p ∈ ps ↔ ∃ w ∈ ws, pixelOf w = some p := by
  rw [← List.mem_map, pixelsOf_eq_some_iff.mp hps, List.mem_map_of_injective (Option.some_injective _)]

theorem pixelsOf_eq_none_iff {ws : List Word} : pixelsOf ws = none ↔ ∃ w ∈ ws, pixelOf w = none := by
  induction ws with
  | nil => simp [pixelsOf]
  | cons w ws ih =>
    rw [pixelsOf_cons, List.exists_mem_cons_iff]
    cases pixelOf w <;> simp [ih]

/-! ## A list that executes (42_bitmap.md R201, R202) -/

/-- A recoverable error leaves RESP only (60_exceptions.md R243). -/
theorem raise_recoverable {c : Resp} (h : c.isProtocolFault = false) (s : State) : raise c s = completed c s := by
  rw [raise, h, Bool.or_false]
  rfl

theorem badDataWord_iff {w : Word} : badDataWord w = true ↔ w.extractLsb' 8 24 ≠ 0 := by
  rw [badDataWord, bne_iff_ne, dataHighField]

theorem translate_illegalCommand {ws : List Word} (hbad : ∃ w ∈ ws, badDataWord w = true) (s : State) :
    translate ws s = completed .illegalCommand s := by
  rw [translate, if_pos (List.any_eq_true.mpr hbad), raise_recoverable rfl]

section
variable {ws : List Word} (hgood : ∀ w ∈ ws, badDataWord w = false)
include hgood

theorem translate_invalidCoordinate (hnone : ∃ w ∈ ws, pixelOf w = none) (s : State) :
    translate ws s = completed .invalidCoordinate s := by
  rw [translate, if_neg (by simpa using hgood), pixelsOf_eq_none_iff.mpr hnone, ← raise_recoverable rfl]

variable {ps : List Pixel} (hps : pixelsOf ws = some ps)
include hps

theorem translate_pixels (s : State) : translate ws s = completed .ok { s with fb := (ps.foldl setPixel s).fb } := by
  rw [translate, if_neg (by simpa using hgood), hps, ← setPixels_frame]
  rfl

/-- R203: a row's bits are the union of what was there and the list. -/
theorem translate_getLsbD (s : State) (r : Row) (k : Fin 8) :
    ((translate ws s).readRow r).getLsbD k.val = ((s.readRow r).getLsbD k.val || decide (⟨k, r⟩ ∈ ps)) := by
  rw [translate_pixels hgood hps, ← setPixels_getLsbD]
  rfl

end

/-- Settles O34: the last data word runs `translate`, which goes by its checks: the three `translate_` lemmas. -/
theorem translateListExecutesWithItsLastWord : Obligations.TranslateListExecutesWithItsLastWord := by
  refine ⟨fun _ => rfl, fun _ _ => rfl, exec_translateList_zero, fun s w hcmd hlast => ?_⟩
  have hexec := exec_translateWord_last hcmd w hlast
  have hgood (h : ∀ v ∈ s.list.words ++ [w], v.extractLsb' 8 24 = 0) :
      ∀ v ∈ s.list.words ++ [w], badDataWord v = false :=
    fun v hv => Bool.eq_false_iff.mpr fun hbad => badDataWord_iff.mp hbad (h v hv)
  refine ⟨fun ⟨v, hv, hbad⟩ => ⟨_, hexec, ?_⟩, fun hzero ⟨v, hv, hout⟩ => ⟨_, hexec, ?_⟩, fun hvalid => ⟨_, hexec, ?_⟩⟩
  · rw [translate_illegalCommand ⟨v, hv, badDataWord_iff.mpr hbad⟩]
    rfl
  · rw [translate_invalidCoordinate (hgood hzero) ⟨v, hv, pixelOf_eq_none_iff.mpr hout⟩]
    rfl
  · have hzero := hgood fun v hv => (hvalid v hv).1
    obtain ⟨ps, hps⟩ : ∃ ps, pixelsOf (s.list.words ++ [w]) = some ps := by
      refine Option.ne_none_iff_exists'.mp fun hnone => ?_
      obtain ⟨v, hv, hout⟩ := pixelsOf_eq_none_iff.mp hnone
      exact pixelOf_eq_none_iff.mp hout (hvalid v hv).2
    constructor
    · rw [translate_pixels hzero hps]
      rfl
    · intro r k hk
      have hbit := translate_getLsbD hzero hps { s with cmdst := .exec, list := .empty } r ⟨k, hk⟩
      rw [hbit, Bool.or_eq_true, decide_eq_true_iff, mem_pixels_iff hps]
      simp only [pixelOf_eq_some_iff]
      rfl

/-! ## Laws of a list (42_bitmap.md R203) -/

theorem translate_clears_no_bit (ws : List Word) (s : State) (r : Row) :
    (translate ws s).readRow r &&& s.readRow r = s.readRow r := by
  obtain h | h | ⟨ps, -, h⟩ := translate_cases ws s <;> rw [h]
  · exact BitVec.and_self
  · exact BitVec.and_self
  · refine BitVec.eq_of_getLsbD_eq fun k hk => ?_
    have hbit : ((respond .ok (ps.foldl setPixel s)).readRow r).getLsbD k = _ := setPixels_getLsbD ps s r ⟨k, hk⟩
    rw [BitVec.getLsbD_and, hbit, Bool.and_eq_right_iff_imp, Bool.or_eq_true]
    exact .inl

/-- Settles O35: rows are compared bit by bit, each bit by `translate_getLsbD`. -/
theorem translationIsAUnion : Obligations.TranslationIsAUnion := by
  refine ⟨fun s ws vs ps qs hps hqs hgood hsame r => ?_, fun s ws vs ps qs hps hqs hgood r => ?_,
    fun s ws r => translate_clears_no_bit ws s r⟩
  all_goals
    obtain ⟨hws, hvs⟩ := List.forall_mem_append.mp hgood
    refine BitVec.eq_of_getLsbD_eq fun k hk => ?_
  · rw [translate_getLsbD hws hps s r ⟨k, hk⟩, translate_getLsbD hvs hqs s r ⟨k, hk⟩, decide_eq_decide.mpr (hsame _)]
  · rw [translate_getLsbD hvs hqs _ r ⟨k, hk⟩, translate_getLsbD hws hps s r ⟨k, hk⟩,
      translate_getLsbD hgood (pixelsOf_append hps hqs) s r ⟨k, hk⟩, Bool.or_assoc, ← Bool.decide_or]
    simp only [List.mem_append]

/-! ## Who writes the frame buffer (42_bitmap.md R205) -/

theorem shifterRun_fb (n : Nat) (s : State) : (shifterRun n s).fb = s.fb := by
  induction n generalizing s with
  | zero => rfl
  | succ n ih =>
    obtain ⟨-, -, hfb, -⟩ := shifterStep_frame s
    exact (ih _).trans hfb

/-- A command leaves the frame buffer as it was, or it is a data word with which its list executes. -/
theorem exec_fb {i : Instr} {s t : State} (hr : s.resets = []) (h : exec i s = .next t) :
    t.fb = s.fb ∨ i.isDataWord = true ∧ ∃ ws, t = translate ws { s with cmdst := .exec, list := .empty } := by
  obtain ⟨c, -, he⟩ | ⟨-, fs, he | ⟨-, he⟩⟩ | ⟨-, he⟩ | ⟨f, -, -, he⟩ | he | ⟨-, -, -, he⟩ | he | ⟨n, -, -, he⟩ |
    ⟨w, -, -, -, he⟩ | ⟨w, rfl, -, -, he⟩ := exec_cases i s hr
  all_goals obtain rfl := Host.Outcome.next.inj (he.symm.trans h)
  · exact .inl (raise_fb s c)
  · exact .inl (sentFrames_fb s fs)
  · exact .inl (sentFrames_fb s fs)
  · exact .inl (selectLine_fb s)
  · exact .inl (writeTxdr_fb s f)
  · exact .inl (shifterRun_fb _ s)
  · exact .inl (deselectLine_fb s)
  · exact .inl (respond_fb s .ok)
  · exact .inl rfl
  · exact .inl rfl
  · exact .inr ⟨rfl, _, rfl⟩

/-- Settles O36: `exec_fb`, and a list that executes clears no bit. -/
theorem onlyTranslateListWritesTheFrameBuffer : Obligations.OnlyTranslateListWritesTheFrameBuffer := by
  refine ⟨fun s t i hr h hi => ?_, fun s t i r hr h => ?_, fun _ _ => rfl⟩
  · obtain hfb | ⟨hdata, -⟩ := exec_fb hr h
    · exact hfb
    · rw [hi] at hdata
      cases hdata
  · obtain hfb | ⟨-, ws, rfl⟩ := exec_fb hr h
    · rw [State.readRow, State.readRow, hfb, BitVec.and_self]
    · exact translate_clears_no_bit ws { s with cmdst := .exec, list := .empty } r

end Sys2Proof.Machine
end

section
/-! PROOFS. The family 43_render.md: RENDER_FULL (R220), RENDER_ROW and its operand (R222, R223), RENDER_COLS (R224),
and the laws of the three (R225). -/

namespace Sys2Proof.Machine

/-! ## One transaction per row under a mask (43_render.md R220, R224) -/

theorem exec_renderFull (s : State) : exec .renderFull s = .next (composite (sendRows 0xFF) s) := rfl

theorem exec_renderCols (c : Byte) (s : State) :
    exec (.renderCols c) s = .next (composite (sendRows (colmask c)) s) := rfl

theorem sendRows_sends (mask : Byte) {s : State} (hidle : s.busIdle = true) (hr : s.resets = []) :
    composite (sendRows mask) s = completed .ok (sentFrames s (allRows.map (rowFrame s mask))) :=
  composite_sends (rowItems mask) hidle hr

/-- The full mask sends the row as it is. -/
theorem rowFrame_whole (s : State) (r : Row) : rowFrame s 0xFF r = rowAddr r ++ s.readRow r :=
  congrArg (mkFrame (rowAddr r)) BitVec.and_allOnes

/-- The empty mask sends a zero row, whatever the row holds. -/
theorem rowFrame_empty (s : State) (r : Row) : rowFrame s 0x00 r = clearFrame r :=
  congrArg (mkFrame (rowAddr r)) BitVec.and_zero

theorem exec_renderFull_sends {s : State} (hidle : s.busIdle = true) (hr : s.resets = []) :
    exec .renderFull s = .next (completed .ok (sentFrames s (allRows.map (rowFrame s 0xFF)))) := by
  rw [exec_renderFull, sendRows_sends _ hidle hr]

/-- Settles O40: the frames are `sendRows_sends`', each the whole row by `rowFrame_whole`. -/
theorem renderFullSendsEveryRow : Obligations.RenderFullSendsEveryRow := by
  refine ⟨rfl, fun s hbusy => congrArg _ (composite_busNotIdle _ hbusy), fun s hidle hr => ?_⟩
  rw [exec_renderFull_sends hidle hr, List.map_congr_left fun r _ => rowFrame_whole s r]
  rfl

/-! ## One row (43_render.md R222, R223) -/

theorem exec_renderRow_sends {row : BitVec 4} {r : Row} (h : row.toNat = rowNumber r) {s : State}
    (hidle : s.busIdle = true) (hr : s.resets = []) :
    exec (.renderRow row) s = .next (completed .ok (sentFrame s (rowFrame s 0xFF r))) := by
  rw [exec_renderRow_row h]
  exact congrArg _ (composite_sends [(1, .row r 0xFF)] hidle hr)

/-- Settles O41: the two errors of a command with a row operand, and `exec_renderRow_sends`. -/
theorem renderRowSendsOneRow : Obligations.RenderRowSendsOneRow := by
  refine ⟨fun _ => rfl, fun _ _ hbusy => congrArg _ (rowCommand_busNotIdle _ hbusy),
    fun _ _ hidle hrow => congrArg _ (rowCommand_invalidRow _ hidle hrow), fun s row r hidle hr hrow => ?_⟩
  rw [exec_renderRow_sends hrow hidle hr, rowFrame_whole, rowAddr_of_rowNumber hrow]

/-! ## The columns above COL masked off (43_render.md R224) -/

/-- The data byte RENDER_COLS sends for a row. -/
def maskedRow (s : State) (c : Byte) (r : Row) : Byte := s.readRow r &&& colmask c

theorem maskedRow_getLsbD (s : State) (c : Byte) (r : Row) {k : Nat} (hk : k < 8) :
    (maskedRow s c r).getLsbD k = ((s.readRow r).getLsbD k && decide (k < c.toNat)) := by
  rw [maskedRow, BitVec.getLsbD_and, colmask_getLsbD c hk]

theorem allRows_getElem? (r : Row) : allRows[r.val]? = some r := by
  revert r
  decide

/-- Settles O42: the bytes are `maskedRow`'s, sent under their addresses by `sendRows_sends`. -/
theorem renderColsMasksTheColumnsAbove : Obligations.RenderColsMasksTheColumnsAbove := by
  refine ⟨fun _ => rfl, fun _ _ hbusy => congrArg _ (composite_busNotIdle _ hbusy), fun s c hidle hr =>
    ⟨allRows.map (maskedRow s c), rfl, fun r v hv k hk => ?_, ?_⟩⟩
  · rw [List.getElem?_map, allRows_getElem?] at hv
    obtain rfl := Option.some.inj hv
    exact maskedRow_getLsbD s c r hk
  · rw [exec_renderCols, sendRows_sends _ hidle hr]
    rfl

/-! ## The laws of the renders (43_render.md R225) -/

theorem colmask_zero : colmask 0 = 0x00 := rfl

/-- RENDER_ROW of the rows of a list, in its order. -/
def renderRows (rows : List Row) : List Instr := rows.map fun r => .renderRow (BitVec.ofNat 4 (rowNumber r))

theorem rowNumber_operand (r : Row) : (BitVec.ofNat 4 (rowNumber r)).toNat = rowNumber r := by
  revert r
  decide

/-- What a command has completed with before makes no difference to what the next one leaves. -/
theorem completed_sentFrames_completed (c : Resp) (s : State) (fs : List Frame) :
    completed c (sentFrames (completed c s) fs) = completed c (sentFrames s fs) :=
  SameButCommand.sentFrames (u := completed c s) (s := s) (fun _ => rfl) fs c

/-- RENDER_ROWs one after the other leave what one command sending those rows leaves: no frame changes a row still to be
sent (43_render.md R221). -/
theorem execSeq_renderRows (r : Row) (rows : List Row) {s : State} (hidle : s.busIdle = true) (hr : s.resets = []) :
    execSeq (renderRows (r :: rows)) s =
      .next (completed .ok (sentFrames s ((r :: rows).map (rowFrame s 0xFF)))) := by
  induction rows generalizing r s with
  | nil =>
    rw [renderRows, List.map_cons, execSeq, exec_renderRow_sends (rowNumber_operand r) hidle hr]
    rfl
  | cons r' rows ih =>
    rw [renderRows, List.map_cons, execSeq, exec_renderRow_sends (rowNumber_operand r) hidle hr]
    exact (ih r' (s := completed .ok (sentFrame s (rowFrame s 0xFF r))) hidle hr).trans
      (congrArg _ (completed_sentFrames_completed .ok _ _))

theorem masked_and_masked {c d : Byte} (h : c.toNat ≤ d.toNat) (v : Byte) :
    (v &&& colmask c) &&& (v &&& colmask d) = v &&& colmask c := by
  apply BitVec.eq_of_getLsbD_eq
  intro k hk
  simp only [BitVec.getLsbD_and, colmask_getLsbD _ hk]
  by_cases hkc : k < c.toNat
  · simp [hkc, hkc.trans_le h]
  · simp [hkc]

/-- Settles O44: the masks of COL 8 and of COL 0, `execSeq_renderRows` on the eight rows, the masks bit by bit, and
`exec_fb`, no render being a data word. -/
theorem renderLaws : Obligations.RenderLaws := by
  refine ⟨fun s c hc => ?_, fun s hidle hr => ⟨?_, ?_⟩, fun c d v h => masked_and_masked h v,
    fun s t c r hr hrender row => ?_⟩
  · rw [exec_renderCols, exec_renderFull, colmask_of_eight_le hc]
  · rw [exec_renderCols, sendRows_sends _ hidle hr, colmask_zero, List.map_congr_left fun r _ => rowFrame_empty s r,
      clearFrames_eq]
  · exact (execSeq_renderRows 0 [1, 2, 3, 4, 5, 6, 7] hidle hr).trans (exec_renderFull_sends hidle hr).symm
  · have keeps {i : Instr} (hi : i.isDataWord = false) (h : exec i s = .next t) : t.fb = s.fb :=
      (exec_fb hr h).resolve_right fun ⟨hdata, _⟩ => Bool.false_ne_true (hi.symm.trans hdata)
    have hfb : t.fb = s.fb := hrender.elim (keeps rfl) (Or.elim · (keeps rfl) (keeps rfl))
    rw [State.readRow, State.readRow, hfb]

end Sys2Proof.Machine
end

section
/-! PROOFS. The family 60_exceptions.md: what a command that ends with an error leaves (R243), who sets FAULT (R242, R249),
and the bus check of the composite commands (R247). -/

namespace Sys2Proof.Machine

/-! ## What a command's end says of the whole command (60_exceptions.md R241 to R243) -/

theorem Resp.isProtocolFault_eq (c : Resp) : c.isProtocolFault = decide (4 ≤ c.code.toNat) := by
  cases c <;> rfl

@[simp] theorem shifterStep_faulted (s : State) : (shifterStep s).faulted = s.faulted := by
  obtain ⟨-, -, h⟩ | ⟨-, -, h⟩ | ⟨-, -, h⟩ | ⟨-, -, h⟩ := shifterStep_cases s <;> simp [h]

theorem shifterRun_faulted (n : Nat) (s : State) : (shifterRun n s).faulted = s.faulted := by
  induction n generalizing s with
  | zero => rfl
  | succ n ih => exact (ih _).trans (shifterStep_faulted s)

theorem sentFrames_faulted (s : State) (fs : List Frame) : (sentFrames s fs).faulted = s.faulted := by
  induction fs generalizing s with
  | nil => rfl
  | cons f fs ih => exact ih (sentFrame s f)

theorem setPixels_faulted (ps : List Pixel) (s : State) : (ps.foldl setPixel s).faulted = s.faulted := by
  rw [setPixels_frame]

/-- The two ways a command leaves the block: it raised an error, with no other effect than the end of a data word's
LIST; or it kept FAULT, and it collects or responded OK. -/
inductive ErrorOrSuccess (i : Instr) (s : State) : State → Prop where
  | error (c : Resp) (l : CoordList) (hl : i.isDataWord = false → l = s.list) :
      ErrorOrSuccess i s (raise c { s with list := l })
  | success {t : State} (hfault : t.faulted = s.faulted) (hend : t.cmdst = .collect ∨ t.resp = .ok) :
      ErrorOrSuccess i s t

theorem translate_errorOrSuccess {i : Instr} (hi : i.isDataWord = true) (ws : List Word) (s : State) :
    ErrorOrSuccess i s (translate ws { s with cmdst := .exec, list := .empty }) := by
  have hlist : i.isDataWord = false → CoordList.empty = s.list := fun h => absurd (hi.symm.trans h) (by decide)
  obtain h | h | ⟨ps, -, h⟩ := translate_cases ws { s with cmdst := .exec, list := .empty } <;> rw [h]
  · exact .error .illegalCommand .empty hlist
  · exact .error .invalidCoordinate .empty hlist
  · exact .success (setPixels_faulted ps { s with cmdst := .exec, list := .empty }) (.inr rfl)

theorem exec_errorOrSuccess {i : Instr} {s t : State} (hr : s.resets = []) (h : exec i s = .next t) :
    ErrorOrSuccess i s t := by
  obtain ⟨c, -, he⟩ | ⟨-, fs, he | ⟨-, he⟩⟩ | ⟨-, he⟩ | ⟨f, -, -, he⟩ | he | ⟨-, -, -, he⟩ | he | ⟨n, -, -, he⟩ |
    ⟨w, -, hcollect, -, he⟩ | ⟨w, rfl, -, -, he⟩ := exec_cases i s hr
  all_goals obtain rfl := Host.Outcome.next.inj (he.symm.trans h)
  · exact .error c s.list fun _ => rfl
  · exact .success (sentFrames_faulted s fs) (.inr rfl)
  · exact .success (sentFrames_faulted s fs) (.inr rfl)
  · exact .success (selectLine_faulted s) (.inr rfl)
  · exact .success (writeTxdr_faulted s f) (.inr rfl)
  · exact .success (shifterRun_faulted _ s) (.inr rfl)
  · exact .success (deselectLine_faulted s) (.inr rfl)
  · exact .success rfl (.inr rfl)
  · exact .success rfl (.inl rfl)
  · exact .success rfl (.inl hcollect)
  · exact translate_errorOrSuccess rfl _ s

/-- Settles O46: a command over with a code other than OK is `exec_errorOrSuccess`'s error. -/
theorem errorsHaveNoOtherEffect : Obligations.ErrorsHaveNoOtherEffect := by
  intro s t i hr h hidle hresp
  cases exec_errorOrSuccess hr h with
  | error c l hl =>
    refine ⟨?_, hl⟩
    rw [raise_resp, ← Resp.isProtocolFault_eq]
    rfl
  | success _ hend =>
    obtain hcollect | hok := hend
    · rw [hidle] at hcollect
      cases hcollect
    · exact absurd hok hresp

/-- Settles O47: success keeps FAULT, and an error adds to it only a protocol fault, whose code is 4 or more. -/
theorem faultIsSticky : Obligations.FaultIsSticky := by
  intro s t i hr h
  cases exec_errorOrSuccess hr h with
  | error c l =>
    rw [raise_faulted, raise_resp, Resp.isProtocolFault_eq, Bool.or_eq_true, decide_eq_true_eq]
    exact ⟨.inl, fun hclear hset => hset.resolve_left (Bool.eq_false_iff.mp hclear)⟩
  | success hfault =>
    rw [hfault]
    exact ⟨id, fun hclear hset => absurd hset (Bool.eq_false_iff.mp hclear)⟩

/-! ## The bus is checked first (60_exceptions.md R247; 92_eei_decisions.md D18) -/

/-- Settles O32: a composite command checks the bus before its statements, one with a row operand before the operand. -/
theorem compositeCommandsNeedAnIdleBus : Obligations.CompositeCommandsNeedAnIdleBus := by
  rintro s i hbusy ⟨f, a, v, l, on, r, c, hi⟩
  cases i with
  | transmit | writeReg | decodeOff | setIntensity | scanLimitAll | setOpmode | setDisplayTest | matrixInit
  | matrixClear | renderFull | renderCols => exact congrArg _ (composite_busNotIdle _ hbusy)
  | writeRow | renderRow => exact congrArg _ (rowCommand_busNotIdle _ hbusy)
  | translateList | translateWord | busSelect | busWrite | busWait | busDeselect => simp at hi

end Sys2Proof.Machine
end

section
/-! PROOFS. The family 70_reset_and_hazards.md: the reset input and the reset values (R270, R272, R289), a reset that cuts a
command short (95_test_vectors.md V8), a command written too early (R283, R284), and the end of a run (R287). -/

namespace Sys2Proof.Machine

/-! ## The reset values (70_reset_and_hazards.md R270, R289) -/

section
variable (s : State)

theorem clearBlock_readRow (r : Row) : (clearBlock s).readRow r = 0x00 := rfl

theorem clearBlock_status : (clearBlock s).status = 0x00000005 := by
  have hreset : State.reset.status = 0x00000005 := by decide
  exact hreset

theorem clearBlock_cleanEntry : (clearBlock s).cleanEntry := ⟨rfl, rfl, rfl, rfl, rfl, rfl⟩

end

/-- The first reset and any later one leave a block that `clearBlock` has cleared. -/
theorem eq_clearBlock_of_reset {t : State} (h : t = State.reset ∨ ∃ s, t = resetInput s) : ∃ s, t = clearBlock s := by
  obtain rfl | ⟨s, rfl⟩ := h
  · exact ⟨State.reset, rfl⟩
  · exact ⟨releaseLine s, rfl⟩

/-- Settles O8: every field is one that `clearBlock` sets. -/
theorem resetValues : Obligations.ResetValues := by
  intro t h
  obtain ⟨s, rfl⟩ := eq_clearBlock_of_reset h
  exact ⟨clearBlock_readRow s, rfl, rfl, rfl, rfl, rfl, rfl, rfl, rfl, rfl, rfl, rfl, rfl, rfl, clearBlock_status s⟩

theorem shifterEnabled_of_shiftDone {s : State} (h : s.shiftDone = true) : s.shifterEnabled = false := by
  rw [shifterEnabled_eq, h]
  rfl

/-- Settles O11: both resets clear the block, and on an idle bus the shifter has nothing to do. -/
theorem cleanEntryAtReset : Obligations.CleanEntryAtReset := by
  refine ⟨clearBlock_cleanEntry State.reset, fun s => clearBlock_cleanEntry (releaseLine s), fun s hclean => ?_⟩
  obtain ⟨hcmd, -, hlist, hidle, -⟩ := hclean
  exact ⟨shifterEnabled_of_shiftDone (shiftDone_of_busIdle hidle), by rw [hlist]; rfl, hcmd⟩

/-! ## The reset input on the line (70_reset_and_hazards.md R272) -/

theorem step_of_resetDue {s : State} (hwf : s.cfg.wf = true) (hdue : s.resets.head? = some 0) :
    step s = .next (takeReset s) := by
  simp [step, nextStep, hwf, hdue]

/-- DRV after a whole frame has been latched. -/
theorem drvAt_of_latched {s t : State} {f : Frame} (h : t.drv = Memory.put s.drv (frameAddr f).toNat (frameData f))
    (a : Byte) : t.drvAt a = if a = frameAddr f then some (frameData f) else s.drvAt a := by
  rw [State.drvAt, h]
  exact sentFrame_drvAt s f a

theorem resetInput_high {s : State} (high : s.ssn = true) :
    (resetInput s).trace = s.trace ∧ (resetInput s).frames = s.frames ∧ (resetInput s).drv = s.drv := by
  simp [resetInput, releaseLine_high high]

section
variable {s : State} (low : s.ssn = false)
include low

theorem resetInput_trace : (resetInput s).trace = s.trace ++ [.ssRise] := by
  simp [resetInput, releaseLine_low low]

/-- On SS_RISE the receiver latches the frame, if it has sixteen bits. -/
theorem resetInput_latches (whole : s.rxbits.length = 16) :
    (resetInput s).frames = s.frames ++ [.full (frameOfBits s.rxbits)] ∧
      ∀ a : Byte, (resetInput s).drvAt a =
        if a = frameAddr (frameOfBits s.rxbits) then some (frameData (frameOfBits s.rxbits)) else s.drvAt a := by
  constructor
  · simp [resetInput, releaseLine_low low, whole]
  · exact drvAt_of_latched (by simp [resetInput, releaseLine_low low, whole])

/-- With fewer bits it records how many there were, and knows nothing of DRV any more. -/
theorem resetInput_records_partial (short : s.rxbits.length ≠ 16) :
    (resetInput s).frames = s.frames ++ [.partialOf s.rxbits.length] ∧ ∀ a : Byte, (resetInput s).drvAt a = none := by
  have hdrv : (resetInput s).drv = [] := by simp [resetInput, releaseLine_low low, short]
  refine ⟨by simp [resetInput, releaseLine_low low, short], fun a => ?_⟩
  rw [State.drvAt, hdrv, Memory.lookup]

end

/-- Settles O9: the step is the reset, which clears the block, keeps the plan, and on a low line emits SS_RISE. -/
theorem resetInputWinsAndReleasesTheLine : Obligations.ResetInputWinsAndReleasesTheLine := by
  intro s hwf hdue
  obtain ⟨hprogram, hreads, hcfg, hrxbits, hresets, -⟩ := resetInput_keeps { s with resets := s.resets.tail }
  refine ⟨takeReset s, step_of_resetDue hwf hdue, rfl, rfl, rfl, rfl, rfl, clearBlock_readRow _, rfl, rfl, rfl, rfl, rfl,
    rfl, rfl, rfl, rfl, clearBlock_status _, hresets, hprogram, hreads, hcfg, hrxbits, fun high => ?_, fun low => ?_⟩
  · exact resetInput_high (s := { s with resets := s.resets.tail }) high
  · exact ⟨resetInput_trace (s := { s with resets := s.resets.tail }) low,
      resetInput_latches (s := { s with resets := s.resets.tail }) low,
      resetInput_records_partial (s := { s with resets := s.resets.tail }) low⟩

/-! ## A reset in the middle of TRANSMIT (70_reset_and_hazards.md R272; 95_test_vectors.md V8) -/

theorem frameBits_take (f : Frame) {k : Nat} (hk : k ≤ 16) :
    (frameBits f).take k = (List.range k).map fun j => f.getLsbD (15 - j) := by
  induction k with
  | zero => rfl
  | succ k ih => rw [frameBits_take_succ f hk, ih (by omega), List.range_succ, List.map_append, List.map_singleton]

/-- `s` with the resets to come planned as `ns`. -/
def State.withResets (ns : List Nat) (s : State) : State := { s with resets := ns }

/-- While a reset is still counted down, the machine's step is the small step (log 3). -/
theorem drain_succ_counting {s : State} (hexec : s.cmdst = .exec) (k n : Nat) (later : List Nat) :
    drain (k + 1) (s.withResets ((n + 1) :: later)) = drain k (microStep (s.withResets (n :: later))) :=
  if_pos hexec

/-- A reset that comes later does not change how a transaction is opened. -/
theorem drain_open_counting {s : State} (hexec : s.cmdst = .exec) (hidle : s.busIdle = true) {seq : Nat}
    {src : FrameSource} {rest : List MicroOp} (hw : s.work = .start seq src :: rest) (n : Nat) (later : List Nat) :
    drain 4 (s.withResets ((n + 4) :: later)) = (drain 4 (s.withResets [])).withResets (n :: later) := by
  obtain ⟨fb, ssn, txdr, txe, bsy, shr, cnt, wr, initd, faulted, resp, cmdst, sq, list, work, trace, rxbits, frames, drv,
    cfg, program, reads, resets, sched, draws⟩ := s
  obtain ⟨rfl, rfl, rfl, rfl⟩ := busIdle_iff.mp hidle
  subst hexec hw
  rfl

/-- The shifts before a reset send the top bits of SHR. -/
theorem drain_shift_counting {s : State} (hexec : s.cmdst = .exec) (low : s.ssn = false) (hbsy : s.bsy = true)
    (hcnt : s.cnt = 16) (later : List Nat) {n : Nat} (hn : n ≤ 16) (m : Nat) :
    drain n (s.withResets ((m + n) :: later)) = shiftedOut n (s.withResets (m :: later)) := by
  induction n generalizing m with
  | zero => simp [drain, shiftedOut]
  | succ n ih =>
    have hmoving : (shiftedOut n (s.withResets (m :: later))).cnt ≠ 0#5 := by
      show s.cnt - BitVec.ofNat 5 n ≠ 0#5
      rw [hcnt]
      bv_omega
    have hen : (shiftedOut n (s.withResets (m :: later))).shifterEnabled = true := by
      simp [shifterEnabled_eq, State.shiftDone, shiftedOut, State.withResets, hbsy]
    calc drain (n + 1) (s.withResets ((m + (n + 1)) :: later))
        = drain 1 (shiftedOut n (s.withResets ((m + 1) :: later))) := by
          rw [drain_add, show m + (n + 1) = m + 1 + n by omega, ih (by omega)]
      _ = microStep (shiftedOut n (s.withResets (m :: later))) :=
          drain_succ_counting (s := shiftedOut n s) hexec 0 m later
      _ = shiftedOut (n + 1) (s.withResets (m :: later)) := by
          rw [microStep_of_enabled hen, shifterStep_shift (s := shiftedOut n (s.withResets (m :: later))) hbsy hmoving,
            shiftedOut_succ (s := s.withResets (m :: later)) (by omega) low]

/-- A reset that is due ends the command it falls in. -/
theorem drain_of_resetDue {s : State} (hexec : s.cmdst = .exec) (k : Nat) (later : List Nat) :
    drain (k + 1) (s.withResets (0 :: later)) = resetInput (s.withResets later) := by
  have htake : drain (k + 1) (s.withResets (0 :: later)) = drain k (resetInput (s.withResets later)) := if_pos hexec
  rw [htake, drain_not_exec (by simp [resetInput])]

/-- `u` is `s` in the middle of TRANSMIT of `f`, with `k` bits out on the open line. -/
structure MidTransmit (s : State) (f : Frame) (k : Nat) (u : State) : Prop where
  low : u.ssn = false
  rxbits_eq : u.rxbits = (frameBits f).take k
  trace_eq : u.trace = s.trace ++ .ssFall :: ((frameBits f).take k).map .bit
  frames_eq : u.frames = s.frames
  drv_eq : u.drv = s.drv
  program_eq : u.program = s.program

/-- Four steps open the transaction and load its frame, `k` shift, and the next one is the reset. -/
theorem exec_transmit_cutShort {s : State} (hidle : s.busIdle = true) (f : Frame) {k : Nat} (hk : k ≤ 16)
    (later : List Nat) :
    ∃ u, exec (.transmit f) (s.withResets ((4 + k) :: later)) = .next (resetInput u) ∧ u.resets = later ∧
      MidTransmit s f k u := by
  have hopened := drain_open (s := (s.accepted [(0, .const f)] [.respond .ok]).withResets []) ⟨rfl, rfl⟩ hidle rfl
  generalize hu : drain 4 ((s.accepted [(0, .const f)] [.respond .ok]).withResets []) = u at hopened
  have hexec : u.cmdst = .exec := by rw [hopened]; rfl
  have hrun : exec (.transmit f) (s.withResets ((4 + k) :: later)) =
      .next (drain 108 ((s.accepted [(0, .const f)] [.respond .ok]).withResets ((4 + k) :: later))) :=
    congrArg _ (composite_idle (s := s.withResets ((4 + k) :: later)) _ hidle)
  refine ⟨(shiftedOut k u).withResets later, ?_, rfl, ?_⟩
  · rw [hrun, show 108 = 4 + (k + (103 - k + 1)) by omega, drain_add, drain_add, show 4 + k = 0 + k + 4 by omega,
      drain_open_counting (s := s.accepted [(0, .const f)] [.respond .ok]) rfl hidle rfl, hu,
      drain_shift_counting hexec (by rw [hopened]) (by rw [hopened]) (by rw [hopened]) later hk 0]
    exact congrArg _ (drain_of_resetDue (s := shiftedOut k u) hexec _ later)
  · have hbits : (shiftedOut k u).rxbits = (frameBits f).take k := by
      rw [hopened, frameBits_take f hk]
      rfl
    have htrace : (shiftedOut k u).trace = s.trace ++ .ssFall :: ((frameBits f).take k).map .bit := by
      rw [List.append_cons, frameBits_take f hk, List.map_map, hopened]
      rfl
    refine ⟨?_, hbits, htrace, ?_, ?_, ?_⟩ <;> rw [hopened] <;> rfl

/-- The receiver has `k` bits, so it latches the frame only for `k = 16`. -/
theorem MidTransmit.reset_receiver {s u : State} {f : Frame} {k : Nat} (h : MidTransmit s f k u) (hk : k ≤ 16) :
    (resetInput u).frames = s.frames ++ [if k = 16 then .full f else .partialOf k] ∧
      ∀ a : Byte, (resetInput u).drvAt a =
        if k = 16 then (if a = frameAddr f then some (frameData f) else s.drvAt a) else none := by
  obtain ⟨low, hbits, -, hframes, hdrv, -⟩ := h
  have hlen : u.rxbits.length = k := by rw [hbits, List.length_take_of_le (by rwa [frameBits_length])]
  by_cases hwhole : k = 16
  · have hframe : frameOfBits u.rxbits = f := by
      rw [hbits, hwhole, List.take_of_length_le (by rw [frameBits_length]), frameOfBits_frameBits]
    have hlatches := resetInput_latches low (hlen.trans hwhole)
    simpa only [hwhole, if_true, hframe, hframes, State.drvAt, hdrv] using hlatches
  · have hpartial := resetInput_records_partial low (hlen.trans_ne hwhole)
    simpa only [hwhole, if_false, hframes, hlen] using hpartial

/-- Settles O10: the reset falls in the state of `MidTransmit`, closes the line there and clears the block. -/
theorem resetCutsTransmitShort : Obligations.ResetCutsTransmitShort := by
  intro s f k later hidle hk
  obtain ⟨u, hexec, hlater, hmid⟩ := exec_transmit_cutShort hidle f hk later
  obtain ⟨hframes, hdrv⟩ := hmid.reset_receiver hk
  obtain ⟨hprogram, -, -, -, hresets, -⟩ := resetInput_keeps u
  refine ⟨resetInput u, hexec, hresets.trans hlater, ?_, hframes, hdrv, rfl, rfl, rfl, rfl, rfl, rfl, rfl, rfl, rfl, rfl,
    rfl, rfl, rfl, rfl, rfl, hprogram.trans hmid.program_eq⟩
  rw [resetInput_trace hmid.low, hmid.trace_eq, List.append_assoc]

/-! ## A command written too early (70_reset_and_hazards.md R283, R284) -/

/-- A word with zeros in 31:8, as a data word has, has the opcode 0. -/
theorem decode_of_high_eq_zero {w : Word} (h : w.extractLsb' 8 24 = 0) : decode w = .error .opZero := by
  refine decode_opZero (BitVec.eq_of_getLsbD_eq fun k hk => ?_)
  have hbit := congrArg (·.getLsbD (20 + k)) h
  simpa [opField, hk, ← Nat.add_assoc, show 20 + k < 24 by omega] using hbit

theorem encodePair_high (x y : BitVec 4) : (encodePair x y).extractLsb' 8 24 = 0 := by
  have h := operandWord_extractLsb'_above 0#32 (x ++ y) (k := 8) (len := 24) (by omega)
  rw [BitVec.zero_or, ← encodePair_eq] at h
  exact h

/-- While a list is collected every word is its next data word (30_encoding.md R100). -/
theorem takeWord_collecting {s : State} (hcmd : s.cmdst = .collect) (w : Word) :
    takeWord w s = exec (.translateWord w) s :=
  takeWord_legal rfl (by simp [decodePort, hcmd])

/-- Settles O37: a legal word has its opcode above the bits of a data word, so the list that holds it is refused whole. -/
theorem earlyCommandIsTakenAsACoordinate : Obligations.EarlyCommandIsTakenAsACoordinate := by
  have high_ne_zero {w : Word} {i : Instr} (hw : decode w = .ok i) : w.extractLsb' 8 24 ≠ 0 := fun hzero => by
    cases hw.symm.trans (decode_of_high_eq_zero hzero)
  refine ⟨fun w i => high_ne_zero, fun s w hcmd => takeWord_collecting hcmd w, fun s w hcmd hlast hearly => ?_,
    fun s x y hcmd hseq hwork => ?_⟩
  · obtain ⟨v, i, hv, hdecode⟩ := hearly
    refine ⟨_, (takeWord_collecting hcmd w).trans (exec_translateWord_last hcmd w hlast), ?_⟩
    rw [translate_illegalCommand ⟨v, hv, badDataWord_iff.mpr (high_ne_zero hdecode)⟩]
    rfl
  · have hdecode := decode_of_high_eq_zero (encodePair_high x y)
    exact ⟨hdecode, takeWord_illegal_of_idle hcmd hseq hwork hdecode⟩

/-! ## The end of a run (70_reset_and_hazards.md R271, R287) -/

theorem step_of_notExec {s : State} (hwf : s.cfg.wf = true) (hreset : s.resets.head? ≠ some 0) (hcmd : s.cmdst ≠ .exec) :
    step s = freeMove (tick s) := by
  simp [step, nextStep, hwf, hreset, hcmd]

/-- With no host action left only the shifter can move. -/
theorem step_of_noAction {s : State} (hwf : s.cfg.wf = true) (hreset : s.resets.head? ≠ some 0) (hcmd : s.cmdst ≠ .exec)
    (hprog : s.program = []) :
    step s = if s.shifterEnabled then .next (shifterStep (tick s)) else nobodyMoves (tick s) := by
  have hen : (tick s).shifterEnabled = s.shifterEnabled := rfl
  simp only [step_of_notExec hwf hreset hcmd, freeMove, tick_program, hprog, hen]

theorem step_of_nobodyMoves {s : State} (hwf : s.cfg.wf = true) (hr : s.resets = []) (hcmd : s.cmdst ≠ .exec)
    (hprog : s.program = []) (hstill : s.shifterEnabled = false) : step s = nobodyMoves s := by
  rw [step_of_noAction hwf (by simp [hr]) hcmd hprog, hstill, tick_of_noReset hr]
  rfl

/-- Settles O56: nobody moves in either state, and only a list being collected is then stuck. -/
theorem endedRunStaysAndCollectingIsStuck : Obligations.EndedRunStaysAndCollectingIsStuck := by
  refine ⟨fun s hwf hr hended => ?_, fun s hwf hr hstuck hstill => ?_⟩
  · obtain ⟨hprog, hcmd, hbsy, htxe⟩ := hended
    rw [step_of_nobodyMoves hwf hr (by simp [hcmd]) hprog (shifterEnabled_of_shiftDone (shiftDone_iff.mpr ⟨hbsy, htxe⟩))]
    simp [nobodyMoves, hcmd]
  · obtain ⟨hprog, hcmd⟩ := hstuck
    rw [step_of_nobodyMoves hwf hr (by simp [hcmd]) hprog hstill]
    simp [nobodyMoves, hcmd, hr]

/-! ## Host actions (70_reset_and_hazards.md R288) -/

theorem advance_program (s : State) : (advance s).program = s.program := by
  unfold advance
  split
  · obtain ⟨hprogram, -⟩ := resetInput_keeps { s with resets := s.resets.tail }
    exact hprogram
  · obtain ⟨hprogram, -⟩ := microStep_plan (tick s)
    exact hprogram

@[simp] theorem runCommand_program (ops : List MicroOp) (s : State) : (runCommand ops s).program = s.program :=
  drain_keeps (p := fun u => u.program = s.program) (fun u hu _ => (advance_program u).trans hu) _ rfl

@[simp] theorem translate_program (ws : List Word) (s : State) : (translate ws s).program = s.program := by
  obtain h | h | ⟨ps, -, h⟩ := translate_cases ws s
  · rw [h, raise_program]
  · rw [h, raise_program]
  · rw [h, respond_program, setPixels_frame]

theorem CommandEffect.program_eq {s t : State} (h : CommandEffect s t) : t.program = s.program := by
  cases h <;> simp

theorem takeWord_answers (w : Word) (s : State) : ∃ t, takeWord w s = .next t ∧ t.program = s.program := by
  unfold takeWord
  split
  · next i _ =>
    obtain ⟨t, ht, heffect⟩ := exec_effect i s
    exact ⟨t, ht, heffect.program_eq⟩
  · exact ⟨_, rfl, raise_program s _⟩

/-- An access that the port admits is answered, and leaves the actions after it. -/
theorem hostMove_answers {a : HostAction} {s : State} (hadmit : ∀ r, portAccess s.cfg a ≠ .refuse r) :
    ∃ t, hostMove a s = .next t ∧ t.program = s.program := by
  unfold hostMove
  split
  · next w _ => exact takeWord_answers w s
  · exact ⟨_, rfl, rfl⟩
  · obtain ⟨hprogram, -⟩ := resetInput_keeps s
    exact ⟨_, rfl, hprogram⟩
  · next r hrefuse => exact absurd hrefuse (hadmit r)

/-! ## Every run comes to an end (70_reset_and_hazards.md R287; 40_transaction.md R129) -/

/-- How many small steps a statement takes at most, with those of the shifter that it sets off. -/
def MicroOp.steps : MicroOp → Nat
  | .start _ _ => 23
  | .write _ => 19
  | .select | .wait | .deselect | .setInit | .respond _ => 1

/-- How many small steps the executing command and the shifter still have at most. -/
def State.microLeft (s : State) : Nat := shifterLeft s + (s.work.map MicroOp.steps).sum

theorem shifterStep_microLeft {s : State} (hen : s.shifterEnabled = true) :
    (shifterStep s).microLeft < s.microLeft := by
  obtain ⟨-, -, hwork⟩ := shifterStep_keeps s
  have hleft := shifterLeft_step hen
  rw [State.microLeft, State.microLeft, hwork]
  omega

/-- With the shifter still, the next statement goes on: a wait is over, and only a write sets the shifter off. -/
theorem blockStep_microLeft {s : State} (hdone : s.shiftDone = true) (hwork : s.work ≠ []) :
    (blockStep s).microLeft < s.microLeft := by
  obtain ⟨hbsy, htxe⟩ := shiftDone_iff.mp hdone
  obtain ⟨hw, -⟩ | ⟨q, src, rest, hw, hstep⟩ | ⟨rest, hw, hstep⟩ | ⟨f, rest, hw, hstep⟩ | ⟨rest, hw, -, hstep⟩ |
    ⟨rest, -, hmoving, -⟩ | ⟨rest, hw, hstep⟩ | ⟨rest, hw, hstep⟩ | ⟨c, rest, hw, hstep⟩ := blockStep_cases s
  · exact absurd hw hwork
  -- The wait that still holds, which a finished shift excludes, is taken first; the other statements go alike.
  rotate_left 4
  · simp [hdone] at hmoving
  all_goals
    rw [hstep]
    simp [State.microLeft, shifterLeft, hw, hbsy, htxe, txnSteps, MicroOp.steps] <;> omega

theorem microStep_microLeft {s : State} (h : s.shifterEnabled = true ∨ s.work ≠ []) :
    (microStep s).microLeft < s.microLeft := by
  cases hdone : s.shiftDone with
  | false =>
    have hen : s.shifterEnabled = true := by rw [shifterEnabled_eq, hdone]; rfl
    rw [microStep_of_enabled hen]
    exact shifterStep_microLeft hen
  | true =>
    rw [microStep_of_done hdone]
    exact blockStep_microLeft hdone (h.resolve_left (by simp [shifterEnabled_of_shiftDone hdone]))

/-- What is left of a run: the host's actions, then the steps to the resets to come, then the small steps. -/
def State.left (s : State) : ℕ ×ₗ ℕ ×ₗ ℕ :=
  toLex (s.program.length, toLex ((s.resets.map (· + 1)).sum, s.microLeft))

theorem State.left_lt_iff {s t : State} : t.left < s.left ↔
    t.program.length < s.program.length ∨ t.program.length = s.program.length ∧
      ((t.resets.map (· + 1)).sum < (s.resets.map (· + 1)).sum ∨
        (t.resets.map (· + 1)).sum = (s.resets.map (· + 1)).sum ∧ t.microLeft < s.microLeft) := by
  simp only [State.left, Prod.Lex.toLex_lt_toLex]

/-- A step that goes on: the host's actions are those still to come, and less of the run is left. -/
structure Progress (s t : State) : Prop where
  program_suffix : t.program <:+ s.program
  left_lt : t.left < s.left

/-- The host performs its next action. -/
theorem Progress.of_action {s t : State} {a : HostAction} (h : s.program = a :: t.program) : Progress s t := by
  constructor
  · rw [h]
    exact List.suffix_cons a _
  · rw [State.left_lt_iff, h, List.length_cons]
    omega

/-- Each step brings the next reset nearer; with none on its way the small steps left count. -/
theorem Progress.of_tick {s t : State} (hdue : s.resets.head? ≠ some 0) (hprogram : t.program = s.program)
    (hresets : t.resets = nearer s.resets) (hmicro : s.resets = [] → t.microLeft < s.microLeft) : Progress s t := by
  refine ⟨by rw [hprogram], ?_⟩
  rw [State.left_lt_iff, hprogram, hresets]
  cases hr : s.resets with
  | nil => exact .inr ⟨rfl, .inr ⟨rfl, hmicro hr⟩⟩
  | cons n later =>
    have hpos : n ≠ 0 := by rintro rfl; simp [hr] at hdue
    refine .inr ⟨rfl, .inl ?_⟩
    simp only [nearer, List.map_cons, List.sum_cons]
    omega

theorem takeReset_progress {s : State} (hdue : s.resets.head? = some 0) : Progress s (takeReset s) := by
  obtain ⟨hprogram, -, -, -, hresets, -⟩ := resetInput_keeps { s with resets := s.resets.tail }
  obtain ⟨later, hr⟩ := List.head?_eq_some_iff.mp hdue
  refine ⟨by rw [takeReset, hprogram], ?_⟩
  rw [State.left_lt_iff, takeReset, hprogram, hresets, hr]
  refine .inr ⟨rfl, .inl ?_⟩
  simp

@[simp] theorem useTurn_program (s : State) : (useTurn s).program = s.program := by
  unfold useTurn
  split <;> rfl

@[simp] theorem useTurn_microLeft (s : State) : (useTurn s).microLeft = s.microLeft := by
  unfold useTurn
  split <;> rfl

/-- A command that executes has a statement to run: its response at the latest. -/
theorem inv_work_ne_nil {s : State} (h : s.inv) (hexec : s.cmdst = .exec) : s.work ≠ [] := by
  obtain ⟨-, -, hfits, -⟩ := inv_command h
  intro hnil
  have hfits' := hfits hexec
  simp [hnil, workFits, betweenTxns] at hfits'

theorem hostMove_progress {s u : State} {a : HostAction} {rest : List HostAction} (hprog : s.program = a :: rest)
    (hcfg : u.cfg = s.cfg) (hadmit : ∀ r, portAccess s.cfg a ≠ .refuse r) :
    ∃ t, hostMove a { u with program := rest } = .next t ∧ Progress s t := by
  obtain ⟨t, ht, hprogram⟩ := hostMove_answers (a := a) (s := { u with program := rest }) (by rwa [hcfg])
  exact ⟨t, ht, .of_action (a := a) (by rw [hprog, hprogram])⟩

section
variable {s : State} (hdue : s.resets.head? ≠ some 0)
include hdue

/-- A step of the shifter, with or without a turn used up for it. -/
theorem shifterStep_progress {u : State} (hu : u = tick s ∨ u = useTurn (tick s)) (hen : s.shifterEnabled = true) :
    Progress s (shifterStep u) := by
  have hsame : u.program = s.program ∧ u.resets = nearer s.resets ∧ u.microLeft = (tick s).microLeft ∧
      u.shifterEnabled = (tick s).shifterEnabled := by
    obtain rfl | rfl := hu <;> simp
  obtain ⟨hprogram, hresets, hmicro, hen'⟩ := hsame
  obtain ⟨hprogram', -, hresets'⟩ := shifterStep_plan u
  refine .of_tick hdue (hprogram'.trans hprogram) (hresets'.trans hresets) fun _ => ?_
  have hless := shifterStep_microLeft (hen'.trans hen)
  rwa [hmicro] at hless

variable (hwf : s.cfg.wf = true)
include hwf

theorem step_progress_of_exec (h : s.inv) (hexec : s.cmdst = .exec) : ∃ t, step s = .next t ∧ Progress s t := by
  have hwork := inv_work_ne_nil h hexec
  have hstep : step s = heldMove (tick s) := by simp [step, nextStep, hwf, hdue, hexec]
  obtain ⟨hprogram, -, hresets⟩ := microStep_plan (tick s)
  exact ⟨_, hstep.trans (if_pos (.inr hwork)),
    .of_tick hdue hprogram hresets fun _ => microStep_microLeft (s := tick s) (.inr hwork)⟩

variable (hcmd : s.cmdst ≠ .exec)
include hcmd

theorem step_of_shifterTurn {a : HostAction} {rest : List HostAction} (hprog : s.program = a :: rest)
    (hmoving : s.shifterEnabled = true) (hturn : nextTurn s = .shifter) :
    step s = .next (shifterStep (useTurn (tick s))) := by
  have hen : (tick s).shifterEnabled = true := hmoving
  have hnext : nextTurn (tick s) = .shifter := hturn
  simp only [step_of_notExec hwf hdue hcmd, freeMove, tick_program, hprog, hen, hnext, if_true]

/-- With a host action left the host or the shifter goes on, whoever's turn it is. -/
theorem step_progress_of_action {a : HostAction} {rest : List HostAction} (hprog : s.program = a :: rest)
    (hadmit : ∀ r, portAccess s.cfg a ≠ .refuse r) : ∃ t, step s = .next t ∧ Progress s t := by
  by_cases hhost : s.shifterEnabled = false ∨ nextTurn s = .host
  · rw [step_of_hostTurn hwf hdue hcmd hhost hprog]
    exact hostMove_progress hprog (by split <;> simp) hadmit
  · obtain ⟨hmoving, hturn⟩ := not_or.mp hhost
    have hen : s.shifterEnabled = true := by simpa using hmoving
    have hshifter : nextTurn s = .shifter := by
      cases hnext : nextTurn s with
      | shifter => rfl
      | host => exact absurd hnext hturn
    exact ⟨_, step_of_shifterTurn hdue hwf hcmd hprog hen hshifter, shifterStep_progress hdue (.inr rfl) hen⟩

/-- With none left the shifter goes on, or the block waits for a reset, or the list is stuck. -/
theorem step_progress_of_noAction (hend : ¬s.ended) (hprog : s.program = []) :
    (∃ t, step s = .next t ∧ Progress s t) ∨ step s = .fault .stuckCollecting := by
  rw [step_of_noAction hwf hdue hcmd hprog]
  cases hen : s.shifterEnabled with
  | true => exact .inl ⟨_, rfl, shifterStep_progress hdue (.inl rfl) hen⟩
  | false =>
    have hcollect : s.cmdst = .collect := by
      cases hst : s.cmdst with
      | idle =>
        rw [shifterEnabled_eq, Bool.not_eq_false', shiftDone_iff] at hen
        exact absurd ⟨hprog, hst, hen⟩ hend
      | collect => rfl
      | exec => exact absurd hst hcmd
    by_cases hr : s.resets = []
    · exact .inr (by simp [nobodyMoves, hcollect, hr])
    · exact .inl ⟨tick s, by simp [nobodyMoves, hr], .of_tick hdue rfl rfl fun hnil => absurd hnil hr⟩

end

/-- A run that has not ended goes on, unless it is stuck collecting a list. -/
theorem step_progress {s : State} (h : s.inv) (hwf : s.cfg.wf = true)
    (hadmit : ∀ a ∈ s.program, ∀ r, portAccess s.cfg a ≠ .refuse r) (hend : ¬s.ended) :
    (∃ t, step s = .next t ∧ Progress s t) ∨ step s = .fault .stuckCollecting := by
  by_cases hdue : s.resets.head? = some 0
  · exact .inl ⟨_, step_of_resetDue hwf hdue, takeReset_progress hdue⟩
  by_cases hexec : s.cmdst = .exec
  · exact .inl (step_progress_of_exec hdue hwf h hexec)
  cases hprog : s.program with
  | nil => exact step_progress_of_noAction hdue hwf hexec hend hprog
  | cons a rest => exact .inl (step_progress_of_action hdue hwf hexec hprog (hadmit a (by simp [hprog])))

theorem core_run_one_of_fault {s : State} {r : Fault} (h : step s = .fault r) : core.run 1 s = .fault r := by
  have hcore : core.step s = .fault r := h
  simp only [Host.Core.run, hcore]

/-- Settles O57: each step leaves less of the run (`State.left`, well-founded), until it has ended or is stuck. -/
theorem everyRunEndsOrIsStuckCollecting : Obligations.EveryRunEndsOrIsStuckCollecting := by
  intro s h hwf hadmit
  induction hl : s.left using WellFoundedLT.induction generalizing s with
  | ind l ih =>
    by_cases hend : s.ended
    · exact ⟨0, .inl ⟨s, core_run_zero s, hend⟩⟩
    obtain ⟨t, hstep, hsuffix, hless⟩ | hstuck := step_progress h hwf hadmit hend
    · have hcfg := configurationNeverChanges s t hstep
      obtain ⟨n, hn⟩ := ih t.left (hl ▸ hless) t (everyStepKeepsTheInvariant s t h hstep) (by rwa [hcfg])
        (fun a ha => by rw [hcfg]; exact hadmit a (hsuffix.subset ha)) rfl
      exact ⟨n + 1, by rwa [core_run_succ hstep]⟩
    · exact ⟨1, .inr (core_run_one_of_fault hstuck)⟩

end Sys2Proof.Machine
end

section
/-! PROOFS. Two more of the family 30_encoding.md: a legal word encodes back to itself (R91, R92, R95 to R97), and words
written out from the format tables. -/

namespace Sys2Proof

/-! ## The operand of each format, put back where the decoder read it (30_encoding.md R91, R92) -/

section
variable (w : Word)

theorem extractLsb'_zero_setWidth (n : Nat) :
    (w.extractLsb' 0 n).setWidth 32 = w &&& (BitVec.allOnes n).setWidth 32 := by
  apply BitVec.eq_of_getLsbD_eq
  intro k hk
  by_cases hkn : k < n
  · simp [hk, hkn]
  · simp [hkn]

theorem frameField_setWidth : (frameField w).setWidth 32 = w &&& 0xFFFF#32 := extractLsb'_zero_setWidth w 16

theorem lowByteField_setWidth : (lowByteField w).setWidth 32 = w &&& 0xFF#32 := extractLsb'_zero_setWidth w 8

theorem lowNibbleField_setWidth : (lowNibbleField w).setWidth 32 = w &&& 0xF#32 := extractLsb'_zero_setWidth w 4

theorem addrField_append_lowByteField_setWidth : (addrField w ++ lowByteField w).setWidth 32 = w &&& 0xFFFF#32 := by
  have happend : addrField w ++ lowByteField w = w.extractLsb' 0 16 :=
    BitVec.extractLsb'_append_extractLsb'_eq_extractLsb' rfl
  exact happend ▸ extractLsb'_zero_setWidth w 16

theorem rowFieldW_append_lowByteField_setWidth : (rowFieldW w ++ lowByteField w).setWidth 32 = w &&& 0xFFF#32 := by
  have happend : rowFieldW w ++ lowByteField w = w.extractLsb' 0 12 :=
    BitVec.extractLsb'_append_extractLsb'_eq_extractLsb' rfl
  exact happend ▸ extractLsb'_zero_setWidth w 12

theorem onField_setWidth : (BitVec.ofBool (onField w)).setWidth 32 = w &&& 0x1#32 := by
  have hbit : BitVec.ofBool (onField w) = w.extractLsb' 0 1 := by
    apply BitVec.eq_of_getLsbD_eq
    intro k hk
    obtain rfl : k = 0 := by omega
    simp [onField]
  exact hbit ▸ extractLsb'_zero_setWidth w 1

end

/-! ## Encoding a decoded command (30_encoding.md R92, R95 to R97) -/

section
variable {t : OpRow} {w : Word}

/-- The operand of the command read under a row's opcode is every bit that the row's mask leaves open: the command's word
is a fixed part and one operand, whatever the format. -/
theorem encode_of_heads (ht : t ∈ opcodeTable) (h : t.Heads w) :
    ∃ i, decode w = unlessReserved t.reserved w i ∧ i.isDataWord = false ∧
      encode i = t.pattern ||| (w &&& ~~~t.mask) := by
  obtain ⟨hop, hsub⟩ := h
  rw [hop] at hsub
  fin_cases ht
  all_goals
    refine ⟨?_, ?_, ?_, ?_⟩
    rotate_left
    · simp (decide := true) only [decode, decodePrimitive, hop, hsub]
      rfl
    · rfl
    · simp only [encode, opWord, BitVec.or_assoc, shifted_or_setWidth]
      simp [frameField_setWidth, lowByteField_setWidth, lowNibbleField_setWidth, onField_setWidth,
        addrField_append_lowByteField_setWidth, rowFieldW_append_lowByteField_setWidth]

theorem OpRow.pattern_or_of_covers (h : t.covers w = true) : t.pattern ||| (w &&& ~~~t.mask) = w := by
  have hw : w &&& t.mask = t.pattern := by simpa [covers] using h
  rw [← hw, ← BitVec.and_or_distrib_left, BitVec.or_not_self, BitVec.and_allOnes]

end

/-- Settles O2: the command is that of the one row that covers the word, so its word has the row's pattern under the mask
and the word's own bits elsewhere. -/
theorem legalWordEncodesBackToItself : Obligations.LegalWordEncodesBackToItself := by
  intro w i hw
  obtain ⟨t, ht, hcovers, -⟩ := row_of_decode_ok hw
  have hheads := OpRow.heads_of_covers ht hcovers
  obtain ⟨j, hdecode, hdata, hencode⟩ := encode_of_heads ht hheads
  have hj : decode w = .ok j := hdecode.trans (if_pos ((hheads.covers_iff ht).mp hcovers))
  cases hw.symm.trans hj
  exact ⟨hdata, hencode.trans (OpRow.pattern_or_of_covers hcovers)⟩

/-- Settles O4: the decoder computes each of the fifteen words. -/
theorem sampleWordsDecode : Obligations.SampleWordsDecode :=
  ⟨rfl, rfl, rfl, rfl, rfl, rfl, rfl, rfl, rfl, rfl, rfl, rfl, rfl, rfl, rfl⟩

end Sys2Proof
end
